-- ==== Sys2Proof/Word.lean ====
section
/-! DEFINITION. The word the ports move (20_memory.md R61) and the numeric domain S carried in it
(00_scope.md R12: a value of S is its binary32 bit pattern, bit 31 the sign). -/

namespace Sys2Proof

/-- One 32-bit word, bits numbered 31 down to 0 (R9). -/
abbrev Word := BitVec 32

/-- A value of the numeric domain S (R12), held as its IEEE 754 binary32 word: `f32` and `bits` of
R11 are the identity, so that values move bit for bit. -/
abbrev F32 := Word

end Sys2Proof
end

