-- ==== Sys2Proof/Syntax.lean ====
section
/-! DEFINITION. The commands of SEQ-CMD version 1 (30_encoding.md R90) and the names their operands
use. Header fields are turned into names once, by the decoder. -/

namespace Sys2Proof

/-- The two command ports (20_memory.md R64): A the audio side, V the visualization side. -/
inductive PortId where
  | a | v
deriving DecidableEq, Repr

/-- A channel: 0 left, 1 right (10_state.md). -/
inductive Chan where
  | l | r
deriving DecidableEq, Repr

/-- The number of channels of an audio block, legal values 1 and 2 (R94). -/
inductive ChanCount where
  | mono | stereo
deriving DecidableEq, Repr

/-- The two Cut Filter Chains, at positions 0 (LowCut) and 4 (HighCut) (R21, R140). -/
inductive Cut where
  | lc | hc
deriving DecidableEq, Repr

/-- The three peak positions 1, 2, 3 (R21). -/
inductive Peak where
  | pk1 | pk2 | pk3
deriving DecidableEq, Repr

/-- A section 0..3 of a Cut Filter Chain (R21), and a slope order 0..3 (R32). -/
inductive Sec where
  | s0 | s1 | s2 | s3
deriving DecidableEq, Repr

/-- A position 0..4 of the Mono Processing Chain (R21). -/
inductive Pos where
  | cut (c : Cut)
  | peak (k : Peak)
deriving DecidableEq, Repr

/-- A stage address of the set ST, eleven in all (R21). -/
inductive Stage where
  | cut (c : Cut) (s : Sec)
  | peak (k : Peak)
deriving DecidableEq, Repr

/-- The twelve control and status registers (R36). -/
inductive Csr where
  | id | fstat | fclr | srate | maxblk | ctrl | floor | slope | bypass | fftord | qcap | fcap
deriving DecidableEq, Repr

/-- One coefficient set: the values b0, b1, b2, a1, a2 in that order (R22). -/
structure Coef where
  b0 : F32
  b1 : F32
  b2 : F32
  a1 : F32
  a2 : F32
deriving DecidableEq, Repr

/-- The display bounds PATHGEN and TICK take (R234, R240). -/
structure Bounds where
  left : F32
  top : F32
  width : F32
  height : F32
deriving DecidableEq, Repr

/-- The five fault codes (60_exceptions.md R271). -/
inductive FaultCode where
  | illop | field | len | notprep | range
deriving DecidableEq, Repr

/-- The eighteen commands (R90, R96), one constructor for each row of the opcode table. A command
both ports may issue carries the port it came in on (R291); the others belong to one port. -/
inductive Instr where
  /-- NOP (R250). -/
  | nop (port : PortId)
  /-- PREPARE (R252): sample rate and largest block size. -/
  | prepare (srate : F32) (maxblk : Word)
  /-- SETCOEF (R128). -/
  | setcoef (st : Stage) (k : Coef)
  /-- SETBYP (R130). -/
  | setbyp (pos : Pos) (flag : Bool)
  /-- CUTUPD (R143): slope order and its coefficient sets, section 0 first. -/
  | cutupd (cut : Cut) (slope : Sec) (sets : List Coef)
  /-- PROC (R160): channel count, samples per channel, planar payload. -/
  | proc (nch : ChanCount) (n : BitVec 16) (payload : List F32)
  /-- MAGQ (R170): a frequency in Hz. -/
  | magq (f : F32)
  /-- RDCSR (R257). -/
  | rdcsr (port : PortId) (reg : Csr)
  /-- WRCSR (R258). -/
  | wrcsr (port : PortId) (reg : Csr) (value : Word)
  /-- RDCOEF (R131). -/
  | rdcoef (st : Stage)
  /-- RDDLY (R132). -/
  | rddly (st : Stage) (ch : Chan)
  /-- PULL (R213). -/
  | pull (ch : Chan)
  /-- FFTRUN (R228). -/
  | fftrun (ch : Chan)
  /-- PATHGEN (R234). -/
  | pathgen (ch : Chan) (bounds : Bounds)
  /-- RDFRAME (R236). -/
  | rdframe (ch : Chan)
  /-- RDPATH (R237). -/
  | rdpath (ch : Chan)
  /-- TICK (R240). -/
  | tick (bounds : Bounds)
  /-- TCDIRTY (R263). -/
  | tcdirty
deriving DecidableEq, Repr

end Sys2Proof
end

