-- ==== Sys2Proof/Machine/Operands.lean ====
section
/-! DEFINITION. Every operand form: the numbers header fields hold (30_encoding.md R93 to R95) and
the names they stand for, both ways; the natural number a payload word holds; the planar layout of
PROC (R98). -/

namespace Sys2Proof

/-- `w[hi:lo]`, the unsigned integer held in bits hi down to lo (R9). -/
def fieldOf (w : Word) (hi lo : Nat) : Nat := w.toNat / 2 ^ lo % 2 ^ (hi + 1 - lo)

/-- The number of a section or slope order (R21, R32). -/
def Sec.toNat : Sec → Nat
  | .s0 => 0 | .s1 => 1 | .s2 => 2 | .s3 => 3

/-- The section a sec field names; 4 and above name none (R99). -/
def Sec.ofNat? : Nat → Option Sec
  | 0 => some .s0 | 1 => some .s1 | 2 => some .s2 | 3 => some .s3
  | _ => none

/-- The number of a position (R21: LC = 0, PK1 = 1, PK2 = 2, PK3 = 3, HC = 4). -/
def Pos.toNat : Pos → Nat
  | .cut .lc => 0 | .peak .pk1 => 1 | .peak .pk2 => 2 | .peak .pk3 => 3 | .cut .hc => 4

/-- The position a pos field names; 5 and above name none (R99). -/
def Pos.ofNat? : Nat → Option Pos
  | 0 => some (.cut .lc) | 1 => some (.peak .pk1) | 2 => some (.peak .pk2)
  | 3 => some (.peak .pk3) | 4 => some (.cut .hc)
  | _ => none

/-- The position of a Cut Filter Chain as a number (R21). -/
def Cut.toNat (c : Cut) : Nat := (Pos.cut c).toNat

/-- The Cut Filter Chain a pos field names: 0 or 4 (R99). -/
def Cut.ofNat? : Nat → Option Cut
  | 0 => some .lc | 4 => some .hc
  | _ => none

/-- The position a stage address lies in (R21). -/
def Stage.pos : Stage → Pos
  | .cut c _ => .cut c
  | .peak k => .peak k

/-- The section of a stage address; a peak has section 0 only (R21). -/
def Stage.sec : Stage → Sec
  | .cut _ s => s
  | .peak _ => .s0

/-- The stage address a pair (pos, sec) names, when it is in ST (R21, R99). -/
def Stage.ofNats? (pos sec : Nat) : Option Stage :=
  match Pos.ofNat? pos, Sec.ofNat? sec with
  | some (.cut c), some s => some (.cut c s)
  | some (.peak k), some .s0 => some (.peak k)
  | _, _ => none

/-- The number of a channel (R93). -/
def Chan.toNat : Chan → Nat
  | .l => 0 | .r => 1

/-- The channel a ch field names (R93). -/
def Chan.ofNat? : Nat → Option Chan
  | 0 => some .l | 1 => some .r
  | _ => none

/-- The number of channels of a block (R94). -/
def ChanCount.toNat : ChanCount → Nat
  | .mono => 1 | .stereo => 2

/-- The channel count an nch field names: 0 and 3 are refused (R99). -/
def ChanCount.ofNat? : Nat → Option ChanCount
  | 1 => some .mono | 2 => some .stereo
  | _ => none

/-- The boolean a flag field holds (R93). -/
def flagOfNat? : Nat → Option Bool
  | 0 => some false | 1 => some true
  | _ => none

/-- The address of a CSR (R36). -/
def Csr.addr : Csr → Nat
  | .id => 0x0 | .fstat => 0x1 | .fclr => 0x2 | .srate => 0x3 | .maxblk => 0x4 | .ctrl => 0x5
  | .floor => 0x6 | .slope => 0x7 | .bypass => 0x8 | .fftord => 0x9 | .qcap => 0xA | .fcap => 0xB

/-- The CSR at an address; 0x000C to 0xFFFF are undefined (R36, R49). -/
def Csr.ofAddr? : Nat → Option Csr
  | 0x0 => some .id | 0x1 => some .fstat | 0x2 => some .fclr | 0x3 => some .srate
  | 0x4 => some .maxblk | 0x5 => some .ctrl | 0x6 => some .floor | 0x7 => some .slope
  | 0x8 => some .bypass | 0x9 => some .fftord | 0xA => some .qcap | 0xB => some .fcap
  | _ => none

/-- Which CSRs a port may write: FCLR from both, CTRL and FLOOR from port V (R36, R258). -/
def Csr.writable : PortId → Csr → Bool
  | _, .fclr => true
  | .v, .ctrl => true
  | .v, .floor => true
  | _, _ => false

/-- The five payload words of a coefficient set, b0 first (R98). -/
def Coef.words (k : Coef) : List Word := [k.b0, k.b1, k.b2, k.a1, k.a2]

/-- The coefficient set five payload words carry (R98). -/
def Coef.ofWords? : List Word → Option Coef
  | [b0, b1, b2, a1, a2] => some ⟨b0, b1, b2, a1, a2⟩
  | _ => none

/-- The coefficient sets a CUTUPD payload carries, five words each, section 0 first (R98, R143). -/
def Coef.listOfWords? : List Word → Option (List Coef)
  | [] => some []
  | b0 :: b1 :: b2 :: a1 :: a2 :: ws => (Coef.listOfWords? ws).map (⟨b0, b1, b2, a1, a2⟩ :: ·)
  | _ => none

/-- The four payload words of display bounds (R234). -/
def Bounds.words (b : Bounds) : List Word := [b.left, b.top, b.width, b.height]

/-- The display bounds four payload words carry (R234, R240). -/
def Bounds.ofWords? : List Word → Option Bounds
  | [l, t, w, h] => some ⟨l, t, w, h⟩
  | _ => none

/-- Channel c's samples in a planar payload: `in[c][i] = payload[c * n + i]` (R98, R160). -/
def planar (n : Nat) (payload : List F32) : Chan → List F32
  | .l => payload.take n
  | .r => (payload.drop n).take n

/-- The channels a block of this count processes (R160). -/
def ChanCount.chans : ChanCount → List Chan
  | .mono => [.l]
  | .stereo => [.l, .r]

/-- The code of a fault (60_exceptions.md R271). -/
def FaultCode.toNat : FaultCode → Nat
  | .illop => 1 | .field => 2 | .len => 3 | .notprep => 4 | .range => 5

end Sys2Proof
end

