-- ==== Sys2Proof/WellFormed.lean ====
section
/-! DEFINITION. Which commands a packet can stand for: what remains to be checked once the header
fields are names (30_encoding.md R97, R99). -/

namespace Sys2Proof

/-- The port a command belongs to (20_memory.md R64, 60_exceptions.md R291). -/
def Instr.port : Instr → PortId
  | .nop p => p
  | .prepare _ _ => .a
  | .setcoef _ _ => .a
  | .setbyp _ _ => .a
  | .cutupd _ _ _ => .a
  | .proc _ _ _ => .a
  | .magq _ => .a
  | .rdcsr p _ => p
  | .wrcsr p _ _ => p
  | .rdcoef _ => .a
  | .rddly _ _ => .a
  | .pull _ => .v
  | .fftrun _ => .v
  | .pathgen _ _ => .v
  | .rdframe _ => .v
  | .rdpath _ => .v
  | .tick _ => .v
  | .tcdirty => .v

/-- The checks of R97 and R99 a term of `Instr` can still fail: CUTUPD carries one coefficient set
for each active section (R143), PROC carries n samples for each channel (R160), and WRCSR names a
register its port may write (R258). -/
def Instr.wellFormed : Instr → Bool
  | .nop _ => true
  | .prepare _ _ => true
  | .setcoef _ _ => true
  | .setbyp _ _ => true
  | .cutupd _ s sets => sets.length == s.toNat + 1
  | .proc nch n payload => payload.length == n.toNat * nch.toNat
  | .magq _ => true
  | .rdcsr _ _ => true
  | .wrcsr p r _ => r.writable p
  | .rdcoef _ => true
  | .rddly _ _ => true
  | .pull _ => true
  | .fftrun _ => true
  | .pathgen _ _ => true
  | .rdframe _ => true
  | .rdpath _ => true
  | .tick _ => true
  | .tcdirty => true

end Sys2Proof
end

