-- ==== Sys2Proof/Decode.lean ====
section
/-! DEFINITION. The decoder of SEQ-CMD version 1, total on any packet (30_encoding.md R100), and
after it the encoder, both written from the opcode map R96 and the formats R92 to R95. -/

namespace Sys2Proof

/-- The commands by name, without operands: the rows of the opcode map (R96). -/
inductive Op where
  | nop | prepare | setcoef | setbyp | cutupd | proc | magq | rdcsr | wrcsr | rdcoef | rddly
  | pull | fftrun | pathgen | rdframe | rdpath | tick | tcdirty
deriving DecidableEq, Repr

/-- The opcode of a command, header bits 31:24 (R96). -/
def Op.code : Op → Nat
  | .nop => 0x00 | .prepare => 0x01 | .setcoef => 0x02 | .setbyp => 0x03 | .cutupd => 0x04
  | .proc => 0x05 | .magq => 0x06 | .rdcsr => 0x07 | .wrcsr => 0x08 | .rdcoef => 0x09
  | .rddly => 0x0A | .pull => 0x10 | .fftrun => 0x11 | .pathgen => 0x12 | .rdframe => 0x13
  | .rdpath => 0x14 | .tick => 0x15 | .tcdirty => 0x16

/-- The command an opcode names; 0x0B to 0x0F and 0x17 to 0xFF name none (R96). -/
def Op.ofCode? : Nat → Option Op
  | 0x00 => some .nop | 0x01 => some .prepare | 0x02 => some .setcoef | 0x03 => some .setbyp
  | 0x04 => some .cutupd | 0x05 => some .proc | 0x06 => some .magq | 0x07 => some .rdcsr
  | 0x08 => some .wrcsr | 0x09 => some .rdcoef | 0x0A => some .rddly | 0x10 => some .pull
  | 0x11 => some .fftrun | 0x12 => some .pathgen | 0x13 => some .rdframe | 0x14 => some .rdpath
  | 0x15 => some .tick | 0x16 => some .tcdirty
  | _ => none

/-- Which commands are defined on which port (R64, R96; 60_exceptions.md R272). -/
def Op.onPort : Op → PortId → Bool
  | .nop, _ => true
  | .rdcsr, _ => true
  | .wrcsr, _ => true
  | .prepare, p => p == .a
  | .setcoef, p => p == .a
  | .setbyp, p => p == .a
  | .cutupd, p => p == .a
  | .proc, p => p == .a
  | .magq, p => p == .a
  | .rdcoef, p => p == .a
  | .rddly, p => p == .a
  | .pull, p => p == .v
  | .fftrun, p => p == .v
  | .pathgen, p => p == .v
  | .rdframe, p => p == .v
  | .rdpath, p => p == .v
  | .tick, p => p == .v
  | .tcdirty, p => p == .v

/-- A command whose header is decoded and whose payload is not yet read. -/
inductive Head where
  | nop (port : PortId)
  | prepare
  | setcoef (st : Stage)
  | setbyp (pos : Pos) (flag : Bool)
  | cutupd (cut : Cut) (slope : Sec)
  | proc (nch : ChanCount) (n : BitVec 16)
  | magq
  | rdcsr (port : PortId) (reg : Csr)
  | wrcsr (port : PortId) (reg : Csr)
  | rdcoef (st : Stage)
  | rddly (st : Stage) (ch : Chan)
  | pull (ch : Chan)
  | fftrun (ch : Chan)
  | pathgen (ch : Chan)
  | rdframe (ch : Chan)
  | rdpath (ch : Chan)
  | tick
  | tcdirty
deriving DecidableEq, Repr

/-- Format Z: bits 23:0 are 0 (R92). -/
def zeroFieldsZ (h : Word) : Bool := fieldOf h 23 0 == 0

/-- Format S: bits 15:9 and 7:1 are 0 (R93). -/
def zeroFieldsS (h : Word) : Bool := fieldOf h 15 9 == 0 && fieldOf h 7 1 == 0

/-- Format B: bits 23:18 are 0 (R94). -/
def zeroFieldsB (h : Word) : Bool := fieldOf h 23 18 == 0

/-- Format C: bits 23:16 are 0 (R95). -/
def zeroFieldsC (h : Word) : Bool := fieldOf h 23 16 == 0

/-- The pos field of format S (R93). -/
def posField (h : Word) : Nat := fieldOf h 23 20

/-- The sec field of format S (R93). -/
def secField (h : Word) : Nat := fieldOf h 19 16

/-- The ch field of format S (R93). -/
def chField (h : Word) : Nat := fieldOf h 8 8

/-- The flag field of format S (R93). -/
def flagField (h : Word) : Nat := fieldOf h 0 0

/-- The stage operand of SETCOEF and RDCOEF: (pos, sec) in ST, ch and flag 0 (R99, R276). -/
def stageOperand? (h : Word) : Option Stage :=
  if zeroFieldsS h && chField h == 0 && flagField h == 0 then
    Stage.ofNats? (posField h) (secField h)
  else none

/-- The channel operand of PULL, FFTRUN, PATHGEN, RDFRAME and RDPATH: pos, sec and flag 0 (R99,
R276). -/
def chanOperand? (h : Word) : Option Chan :=
  if zeroFieldsS h && posField h == 0 && secField h == 0 && flagField h == 0 then
    Chan.ofNat? (chField h)
  else none

/-- The CSR operand of RDCSR and WRCSR (R95, R99). -/
def csrOperand? (h : Word) : Option Csr :=
  if zeroFieldsC h then Csr.ofAddr? (fieldOf h 15 0) else none

/-- The header fields of a command as names, or none where a field is illegal (R99, R276). -/
def headOf? (p : PortId) (op : Op) (h : Word) : Option Head :=
  match op with
  | .nop => if zeroFieldsZ h then some (.nop p) else none
  | .prepare => if zeroFieldsZ h then some .prepare else none
  | .setcoef => (stageOperand? h).map .setcoef
  | .setbyp =>
    if zeroFieldsS h && secField h == 0 && chField h == 0 then
      match Pos.ofNat? (posField h), flagOfNat? (flagField h) with
      | some pos, some flag => some (.setbyp pos flag)
      | _, _ => none
    else none
  | .cutupd =>
    if zeroFieldsS h && chField h == 0 && flagField h == 0 then
      match Cut.ofNat? (posField h), Sec.ofNat? (secField h) with
      | some cut, some slope => some (.cutupd cut slope)
      | _, _ => none
    else none
  | .proc =>
    if zeroFieldsB h then
      (ChanCount.ofNat? (fieldOf h 17 16)).map (.proc · (BitVec.ofNat 16 (fieldOf h 15 0)))
    else none
  | .magq => if zeroFieldsZ h then some .magq else none
  | .rdcsr => (csrOperand? h).map (.rdcsr p)
  | .wrcsr =>
    match csrOperand? h with
    | some r => if r.writable p then some (.wrcsr p r) else none
    | none => none
  | .rdcoef => (stageOperand? h).map .rdcoef
  | .rddly =>
    if zeroFieldsS h && flagField h == 0 then
      match Stage.ofNats? (posField h) (secField h), Chan.ofNat? (chField h) with
      | some st, some ch => some (.rddly st ch)
      | _, _ => none
    else none
  | .pull => (chanOperand? h).map .pull
  | .fftrun => (chanOperand? h).map .fftrun
  | .pathgen => (chanOperand? h).map .pathgen
  | .rdframe => (chanOperand? h).map .rdframe
  | .rdpath => (chanOperand? h).map .rdpath
  | .tick => if zeroFieldsZ h then some .tick else none
  | .tcdirty => if zeroFieldsZ h then some .tcdirty else none

/-- `paylen(h)`, the payload length a header requires (R97, R273). -/
def Head.paylen : Head → Nat
  | .nop _ => 0
  | .prepare => 2
  | .setcoef _ => 5
  | .setbyp _ _ => 0
  | .cutupd _ s => 5 * (s.toNat + 1)
  | .proc nch n => n.toNat * nch.toNat
  | .magq => 1
  | .rdcsr _ _ => 0
  | .wrcsr _ _ => 1
  | .rdcoef _ => 0
  | .rddly _ _ => 0
  | .pull _ => 0
  | .fftrun _ => 0
  | .pathgen _ => 4
  | .rdframe _ => 0
  | .rdpath _ => 0
  | .tick => 4
  | .tcdirty => 0

/-- The command a header and its payload words stand for; none when the payload's length is not the
one the header requires (R98). -/
def Head.withPayload? : Head → List Word → Option Instr
  | .nop p, [] => some (.nop p)
  | .prepare, [sr, mb] => some (.prepare sr mb)
  | .setcoef st, ws => (Coef.ofWords? ws).map (.setcoef st)
  | .setbyp pos flag, [] => some (.setbyp pos flag)
  | .cutupd cut s, ws => (Coef.listOfWords? ws).map (.cutupd cut s)
  | .proc nch n, ws => some (.proc nch n ws)
  | .magq, [f] => some (.magq f)
  | .rdcsr p r, [] => some (.rdcsr p r)
  | .wrcsr p r, [w] => some (.wrcsr p r w)
  | .rdcoef st, [] => some (.rdcoef st)
  | .rddly st ch, [] => some (.rddly st ch)
  | .pull ch, [] => some (.pull ch)
  | .fftrun ch, [] => some (.fftrun ch)
  | .pathgen ch, ws => (Bounds.ofWords? ws).map (.pathgen ch)
  | .rdframe ch, [] => some (.rdframe ch)
  | .rdpath ch, [] => some (.rdpath ch)
  | .tick, ws => (Bounds.ofWords? ws).map .tick
  | .tcdirty, [] => some .tcdirty
  | _, _ => none

/-- What decoding answers: a command, or the code of the fault (R100). -/
inductive Decoded where
  | ok (i : Instr)
  | bad (k : FaultCode)
deriving DecidableEq, Repr

/-- Decoding a packet (R100): the opcode first, then the fields, then the length. A packet is never
empty (R61); log 13 says what an empty list answers. -/
def decode (p : PortId) (packet : List Word) : Decoded :=
  match packet with
  | [] => .bad .len
  | h :: ws =>
    match Op.ofCode? (fieldOf h 31 24) with
    | none => .bad .illop
    | some op =>
      if op.onPort p then
        match headOf? p op h with
        | none => .bad .field
        | some hd =>
          if ws.length = hd.paylen then
            match hd.withPayload? ws with
            | some i => .ok i
            | none => .bad .len
          else .bad .len
      else .bad .illop

/-- The port a table row's word is read on: port A where its opcode is defined there, else port V
(log 19). -/
def tablePort (h : Word) : PortId :=
  match Op.ofCode? (fieldOf h 31 24) with
  | some op => if op.onPort .a then .a else .v
  | none => .a

/-- The payload length a header requires on its table port; 0 for a header no row accepts. -/
def tablePaylen (h : Word) : Nat :=
  match Op.ofCode? (fieldOf h 31 24) with
  | some op => ((headOf? (tablePort h) op h).map Head.paylen).getD 0
  | none => 0

/-- The packet of an instruction whose bits, as the opcode table numbers them, are the low `nbits`
bits of w: the header is bits 31:0 and each payload word the next 32; a bit above `nbits` is 0. -/
def tablePacket (nbits w : Nat) : List Word :=
  let bits := w % 2 ^ nbits
  let h := BitVec.ofNat 32 bits
  h :: (List.range (tablePaylen h)).map fun k => BitVec.ofNat 32 (bits / 2 ^ (32 * (k + 1)))

/-- The instruction the decoder reads from such a packet, none where it answers a fault. -/
def decodeTableWord (nbits w : Nat) : Option Instr :=
  let packet := tablePacket nbits w
  match decode (tablePort (packet.headD 0)) packet with
  | .ok i => some i
  | .bad _ => none

/-- A header of format S (R93). -/
def headerS (op : Op) (pos sec ch flag : Nat) : Word :=
  BitVec.ofNat 32 (op.code * 2 ^ 24 + pos * 2 ^ 20 + sec * 2 ^ 16 + ch * 2 ^ 8 + flag)

/-- A header of format Z (R92). -/
def headerZ (op : Op) : Word := BitVec.ofNat 32 (op.code * 2 ^ 24)

/-- A header of format B (R94). -/
def headerB (op : Op) (nch n : Nat) : Word :=
  BitVec.ofNat 32 (op.code * 2 ^ 24 + nch * 2 ^ 16 + n)

/-- A header of format C (R95). -/
def headerC (op : Op) (addr : Nat) : Word := BitVec.ofNat 32 (op.code * 2 ^ 24 + addr)

/-- The header word of a command (R91 to R96). -/
def Instr.header : Instr → Word
  | .nop _ => headerZ .nop
  | .prepare _ _ => headerZ .prepare
  | .setcoef st _ => headerS .setcoef st.pos.toNat st.sec.toNat 0 0
  | .setbyp pos flag => headerS .setbyp pos.toNat 0 0 flag.toNat
  | .cutupd cut s _ => headerS .cutupd cut.toNat s.toNat 0 0
  | .proc nch n _ => headerB .proc nch.toNat n.toNat
  | .magq _ => headerZ .magq
  | .rdcsr _ r => headerC .rdcsr r.addr
  | .wrcsr _ r _ => headerC .wrcsr r.addr
  | .rdcoef st => headerS .rdcoef st.pos.toNat st.sec.toNat 0 0
  | .rddly st ch => headerS .rddly st.pos.toNat st.sec.toNat ch.toNat 0
  | .pull ch => headerS .pull 0 0 ch.toNat 0
  | .fftrun ch => headerS .fftrun 0 0 ch.toNat 0
  | .pathgen ch _ => headerS .pathgen 0 0 ch.toNat 0
  | .rdframe ch => headerS .rdframe 0 0 ch.toNat 0
  | .rdpath ch => headerS .rdpath 0 0 ch.toNat 0
  | .tick _ => headerZ .tick
  | .tcdirty => headerZ .tcdirty

/-- The payload words of a command (R98). -/
def Instr.payloadWords : Instr → List Word
  | .nop _ => []
  | .prepare sr mb => [sr, mb]
  | .setcoef _ k => k.words
  | .setbyp _ _ => []
  | .cutupd _ _ sets => sets.flatMap Coef.words
  | .proc _ _ payload => payload
  | .magq f => [f]
  | .rdcsr _ _ => []
  | .wrcsr _ _ w => [w]
  | .rdcoef _ => []
  | .rddly _ _ => []
  | .pull _ => []
  | .fftrun _ => []
  | .pathgen _ b => b.words
  | .rdframe _ => []
  | .rdpath _ => []
  | .tick b => b.words
  | .tcdirty => []

/-- The packet of a command (R61): its header, then its payload. -/
def encode (i : Instr) : List Word := i.header :: i.payloadWords

end Sys2Proof
end

