-- ==== Sys2Proof/Config.lean ====
section
/-! DEFINITION. The implementation parameters of 00_scope.md R7 as plain data with their defaults,
the numeric record NUM as functions (R12, R13), and the free functions the spec leaves open, each an
opaque constant without a body. -/

namespace Sys2Proof

/-- The window table WIN (R7, R221): the default window of 45_analyzer.md R222, or any table of
values. -/
inductive Window where
  | blackmanHarris
  | table (ws : List F32)
deriving DecidableEq, Repr

/-- The numeric record NUM (R7, R12, R13): the arithmetic primitives and the transcendental and bulk
functions, `stage_mag` (42_mono_chain.md R171) among them. What computes with values takes the
record as an argument. -/
structure NumRecord where
  fadd : F32 → F32 → F32
  fsub : F32 → F32 → F32
  fmul : F32 → F32 → F32
  fdiv : F32 → F32 → F32
  fsqrt : F32 → F32
  flog10 : F32 → F32
  fcos : F32 → F32
  fsin : F32 → F32
  fmag2 : F32 → F32 → F32
  /-- DFTMAG of an input, the bins 0 to count - 1 (R224). -/
  dftmag : List F32 → Nat → List F32
  /-- The magnitude of one biquad at a frequency and a sample rate. -/
  stageMag : Coef → F32 → F32 → F32

/-- Which numeric record a block is built with, as plain data: a parameter NUM that State can hold
(log 23). -/
inductive NumChoice where
  /-- IEEE 754 binary32 (R12), with choice j of everything R12, R13, R171 and R224 leave open. -/
  | binary32 (j : Nat)
  /-- Record j of another arithmetic: NUM is open (92_eei_decisions.md D5). -/
  | other (j : Nat)
deriving DecidableEq, Repr

/-- The parameters of R7. They are inputs of the model, not state of the block (R8, R20). -/
structure Config where
  /-- log2 of the FFT length, legal 1..15. -/
  order : Nat
  /-- Capacity of each sample queue in blocks. -/
  qcap : Nat
  /-- Capacity of each frame queue in frames. -/
  fcap : Nat
  /-- The window table WIN. -/
  win : Window
  /-- FLOOR_RESET, the reset value of FLOOR. -/
  floorReset : F32
  /-- FMIN, the frequency at the left edge of the path. -/
  fmin : F32
  /-- FMAX, the frequency at the right edge of the path. -/
  fmax : F32
  /-- The numeric record NUM. -/
  num : NumChoice
deriving DecidableEq, Repr

/-- The defaults of R7: QCAP 30, FCAP 30, ORDER 11, Blackman-Harris, -48.0, 20.0, 20000.0,
binary32. -/
def Config.default : Config where
  order := 11
  qcap := 30
  fcap := 30
  win := .blackmanHarris
  floorReset := 0xC2400000#32
  fmin := 0x41A00000#32
  fmax := 0x469C4000#32
  num := .binary32 0

/-- N = 2^ORDER, the FFT length (R7). -/
def Config.n (c : Config) : Nat := 2 ^ c.order

/-- The arithmetic primitives of R12, as labels of the free choices. -/
inductive ArithOp where
  | add | sub | mul | div | sqrt
deriving DecidableEq, Repr

/-- FREE VALUE (R12, U6): which NaN a primitive of binary32 record j returns on the operands given.
Log 1. -/
opaque Config.freeNaN : Nat → ArithOp → F32 → F32 → F32

/-- FREE VALUE (R7, D5): the arithmetic primitives of other record j. Log 23. -/
opaque Config.freeArith : Nat → ArithOp → F32 → F32 → F32

/-- FREE VALUE (R13, U8): log10, before the limits of R13. Log 2. -/
opaque Config.freeLog10 : NumChoice → F32 → F32

/-- FREE VALUE (R13, U8): cosine, before the limit of R13. Log 3. -/
opaque Config.freeCos : NumChoice → F32 → F32

/-- FREE VALUE (R13, U8): sine, before the limit of R13. Log 3. -/
opaque Config.freeSin : NumChoice → F32 → F32

/-- FREE VALUE (R13, U8): the square root of a sum of squares, before the limits of R13. Log 3. -/
opaque Config.freeMag2 : NumChoice → F32 → F32 → F32

/-- FREE VALUE (R224, U8): bin k of the magnitude spectrum of an input, before the limits of R224.
Log 4. -/
opaque Config.freeDftBin : NumChoice → List F32 → Nat → F32

/-- FREE VALUE (R171, U8): the magnitude of one biquad for a coefficient set, a frequency and a
sample rate, before the limits of R172. Log 5. -/
opaque Config.freeStageMag : NumChoice → Coef → F32 → F32 → F32

end Sys2Proof
end

