-- ==== Sys2Proof/Machine/State.lean ====
section
/-! DEFINITION. The state of one SEQ block as plain data (10_state.md R20), what stands on its two
ports (20_memory.md R60, R61), the agenda of its environment (R74), the reasons a step can stop, and
the state after reset (70_reset_and_hazards.md R301). -/

namespace Sys2Proof.Machine

/-- Why the machine stops: for no reason. Every fault of the spec is one micro-step after which the
port goes on with its next packet (60_exceptions.md R274), and "The block never halts"
(70_reset_and_hazards.md R322). The type has no constructor, so that an outcome `.fault` cannot be
written (log 18). -/
inductive Fault where
deriving DecidableEq, Repr

/-- Why an instruction has no meaning. -/
inductive Refusal where
  /-- Raised by an arm of `exec` whose instruction has no meaning yet, and by nothing else; no arm
  does. Safe: the model stops where the block goes on. -/
  | notModelled (mnemonic : String)
deriving DecidableEq, Repr

/-- What an instruction or a step answers. -/
abbrev Out (σ : Type) := Host.Outcome σ Fault Refusal

/-- One thing for each channel. -/
structure Chans (α : Type) where
  l : α
  r : α
deriving DecidableEq, Repr

/-- One thing for each port. -/
structure Ports (α : Type) where
  a : α
  v : α
deriving DecidableEq, Repr

/-- One thing for each of the two Cut Filter Chains. -/
structure Cuts (α : Type) where
  lc : α
  hc : α
deriving DecidableEq, Repr

/-- One thing for each section of a Cut Filter Chain. -/
structure Secs (α : Type) where
  s0 : α
  s1 : α
  s2 : α
  s3 : α
deriving DecidableEq, Repr

/-- One thing for each position. -/
structure Poss (α : Type) where
  lc : α
  pk1 : α
  pk2 : α
  pk3 : α
  hc : α
deriving DecidableEq, Repr

/-- One thing for each stage address of ST (R21). -/
structure Bank (α : Type) where
  lc : Secs α
  pk1 : α
  pk2 : α
  pk3 : α
  hc : Secs α
deriving DecidableEq, Repr

/-- A delay record: the last two inputs and the last two outputs of a biquad (R24). -/
structure Delay where
  x1 : F32
  x2 : F32
  y1 : F32
  y2 : F32
deriving DecidableEq, Repr

/-- A point of a path (R55). -/
structure Point where
  x : F32
  y : F32
deriving DecidableEq, Repr

/-- One word on a command stream (R60, R61). -/
structure CmdBeat where
  data : Word
  last : Bool
deriving DecidableEq, Repr

/-- One word on a response stream; `err` is the same on every word of a packet (R60, R61). -/
structure RspBeat where
  data : Word
  last : Bool
  err : Bool
deriving DecidableEq, Repr

/-- What stands on one port. -/
structure PortIO where
  /-- What the issuing agent has put on the command stream and the block has not accepted. -/
  cmd : List CmdBeat
  /-- The accepted words of a packet whose last word has not been accepted. -/
  rx : List Word
  /-- The response words emitted and not yet taken by the issuing agent, oldest first. -/
  rsp : List RspBeat
deriving DecidableEq, Repr

/-- One channel of a PROC between two of its micro-steps (R75): the samples not yet filtered, the
outputs not yet pushed, the outputs pushed, each in sample order. -/
structure Lane where
  todo : List F32
  pend : List F32
  done : List F32
deriving DecidableEq, Repr

/-- A PROC between two of its micro-steps (R75); a mono block has no right lane. -/
structure ProcRun where
  l : Lane
  r : Option Lane
deriving DecidableEq, Repr

/-- Which micro-step a TICK takes next on its channel (45_analyzer.md R240). -/
inductive TickPhase where
  | pull | fft | path
deriving DecidableEq, Repr

/-- A TICK between two of its micro-steps (R240): `left` pulls may still be made on channel `ch`. -/
structure TickRun where
  bounds : Bounds
  ch : Chan
  left : Nat
  phase : TickPhase
deriving DecidableEq, Repr

/-- What can happen next to the block: one entry of an interleaving (R74). -/
inductive Event where
  /-- The next command of a port runs from its first micro-step to its last with nothing between. -/
  | command (p : PortId)
  /-- The next command of a port is decoded and checked: a PROC or TICK that passes its checks is
  then in flight, every other command is one micro-step (R75). -/
  | start (p : PortId)
  /-- One filter step of the PROC in flight, on one channel (R75). -/
  | filter (c : Chan)
  /-- One push step of the PROC in flight, on one channel (R75). -/
  | push (c : Chan)
  /-- The response step of the PROC in flight (R75). -/
  | respond
  /-- One micro-step of the TICK in flight (R240). -/
  | tick
  /-- A port accepts one word that is not the last of its packet (R60, R61). -/
  | accept (p : PortId)
  /-- The issuing agent takes one response word (R60, R61). -/
  | take (p : PortId)
  /-- A pulse on `param_changed` (46_system.md R262). -/
  | paramChanged
  /-- `rst_n` is sampled low (70_reset_and_hazards.md R300). -/
  | reset
deriving DecidableEq, Repr

/-- The state of one SEQ block. -/
structure State where
  /-- The parameters of 00_scope.md R7; never written (log 6). -/
  cfg : Config
  /-- COEF[p][s] (R22). -/
  coef : Bank Coef
  /-- DLY[c][p][s] (R24). -/
  dly : Chans (Bank Delay)
  /-- PBYP[p] (R30). -/
  pbyp : Poss Bool
  /-- SBYP[p][s] (R31). -/
  sbyp : Cuts (Secs Bool)
  /-- SLOPE[p] (R32). -/
  slope : Cuts Sec
  /-- PREPARED (R35). -/
  prepared : Bool
  /-- SRATE (R41). -/
  srate : F32
  /-- MAXBLK (R42). -/
  maxblk : Nat
  /-- ACC[c] (R50). -/
  acc : Chans (List F32)
  /-- Q[c], oldest block first (R51). -/
  queue : Chans (List (List F32))
  /-- ROLL[c], oldest sample first (R52). -/
  roll : Chans (List F32)
  /-- FQ[c], oldest frame first (R53). -/
  fq : Chans (List (List F32))
  /-- CURFRAME[c] (R54). -/
  curframe : Chans (Option (List F32))
  /-- CURPATH[c] (R55). -/
  curpath : Chans (List Point)
  /-- ANEN (R33). -/
  anen : Bool
  /-- FLOOR (R44). -/
  floor : F32
  /-- DIRTY (R34). -/
  dirty : Bool
  /-- FSTAT_A and FSTAT_V (R35). -/
  fstat : Ports (BitVec 5)
  /-- The streams of the two ports (R60, R61). -/
  io : Ports PortIO
  /-- The PROC in flight on port A, if any (R75). -/
  procRun : Option ProcRun
  /-- The TICK in flight on port V, if any (R240). -/
  tickRun : Option TickRun
  /-- The agenda of the environment, next event first (R74; log 8). -/
  sched : List Event
deriving DecidableEq, Repr

/-- The same thing for every section. -/
def Secs.all {α : Type} (x : α) : Secs α := ⟨x, x, x, x⟩

/-- The same thing for every stage address. -/
def Bank.all {α : Type} (x : α) : Bank α := ⟨.all x, x, x, x, .all x⟩

/-- The same thing for both channels. -/
def Chans.all {α : Type} (x : α) : Chans α := ⟨x, x⟩

/-- The identity coefficient set, the reset value of every COEF (R22, R127). -/
def identityCoef : Coef := ⟨0x3F800000#32, 0#32, 0#32, 0#32, 0#32⟩

/-- The delay record of all +0.0, the reset value of every DLY (R24). -/
def Delay.zero : Delay := ⟨0#32, 0#32, 0#32, 0#32⟩

/-- A port with nothing on it. -/
def PortIO.empty : PortIO := ⟨[], [], []⟩

/-- The section bypass flags after reset: section 0 active, 1 to 3 bypassed (R31). -/
def Secs.resetBypass : Secs Bool := ⟨false, true, true, true⟩

/-- The state right after reset of a block built with these parameters (R301). -/
def State.resetWith (c : Config) : State where
  cfg := c
  coef := .all identityCoef
  dly := .all (.all .zero)
  pbyp := ⟨false, false, false, false, false⟩
  sbyp := ⟨.resetBypass, .resetBypass⟩
  slope := ⟨.s0, .s0⟩
  prepared := false
  srate := 0#32
  maxblk := 0
  acc := .all []
  queue := .all []
  roll := .all (List.replicate c.n 0#32)
  fq := .all []
  curframe := .all none
  curpath := .all []
  anen := true
  floor := c.floorReset
  dirty := false
  fstat := ⟨0#5, 0#5⟩
  io := ⟨.empty, .empty⟩
  procRun := none
  tickRun := none
  sched := []

/-- The state right after reset of a block built with the default parameters of R7. -/
def State.reset : State := State.resetWith Config.default

end Sys2Proof.Machine
end

