-- ==== Sys2Proof/Machine/Flags.lean ====
section
/-! DEFINITION. Every flag computation: the fault bits (10_state.md R35, R39, R40), the section
bypass flags a slope order gives (41_cut_chain.md R143), and the flag words FSTAT, CTRL, SLOPE and
BYPASS a CSR read shows (R39, R43, R45, R46). -/

namespace Sys2Proof.Machine

/-- The sticky bits with bit k - 1 set for code k (R35, R274). -/
def faultSet (k : FaultCode) (bits : BitVec 5) : BitVec 5 :=
  bits ||| BitVec.ofNat 5 (2 ^ (k.toNat - 1))

/-- The sticky bits with each bit cleared that is 1 in bits 4:0 of w (R40). -/
def faultClear (w : Word) (bits : BitVec 5) : BitVec 5 := bits &&& ~~~(w.setWidth 5)

/-- Whether section k is bypassed at slope order s: exactly when k > s (R32, R143). -/
def bypassedAt (s k : Sec) : Bool := decide (s.toNat < k.toNat)

/-- The four section bypass flags at slope order s (R143). -/
def slopeBypass (s : Sec) : Secs Bool :=
  ⟨bypassedAt s .s0, bypassedAt s .s1, bypassedAt s .s2, bypassedAt s .s3⟩

/-- The four section flags as a number, section 0 lowest (R46). -/
def secsNat (f : Secs Bool) : Nat :=
  f.s0.toNat + 2 * f.s1.toNat + 4 * f.s2.toNat + 8 * f.s3.toNat

/-- The word of CSR FSTAT: the port's fault bits in 4:0, PREPARED in 8, DIRTY in 9 (R39). -/
def fstatWord (bits : BitVec 5) (prepared dirty : Bool) : Word :=
  BitVec.ofNat 32 (bits.toNat + 2 ^ 8 * prepared.toNat + 2 ^ 9 * dirty.toNat)

/-- The word of CSR CTRL: ANEN in bit 0 (R43). -/
def ctrlWord (anen : Bool) : Word := BitVec.ofNat 32 anen.toNat

/-- The word of CSR SLOPE: SLOPE[0] in bits 1:0, SLOPE[4] in bits 5:4 (R45). -/
def slopeWord (s : Cuts Sec) : Word := BitVec.ofNat 32 (s.lc.toNat + 2 ^ 4 * s.hc.toNat)

/-- The word of CSR BYPASS: PBYP[p] in bit p, SBYP[0][s] in bit 8 + s, SBYP[4][s] in bit 12 + s
(R46). -/
def bypassWord (p : Poss Bool) (s : Cuts (Secs Bool)) : Word :=
  BitVec.ofNat 32 (p.lc.toNat + 2 * p.pk1.toNat + 4 * p.pk2.toNat + 8 * p.pk3.toNat
    + 16 * p.hc.toNat + 2 ^ 8 * secsNat s.lc + 2 ^ 12 * secsNat s.hc)

end Sys2Proof.Machine
end

