-- ==== Sys2Proof/Machine/Float.lean ====
section
/-! DEFINITION. The binary32 arithmetic of 00_scope.md R12 and the comparisons of R15. A finite
value is held exactly as a whole number of 2^-149, the smallest subnormal; every operation computes
the exact result and rounds it once, to nearest with ties to even. -/

namespace Sys2Proof

/-- The sign bit (R12). -/
def F32.neg? (w : F32) : Bool := w.toNat / 2 ^ 31 == 1

/-- The exponent field, bits 30:23 (R12). -/
def F32.expo (w : F32) : Nat := w.toNat / 2 ^ 23 % 2 ^ 8

/-- The fraction field, bits 22:0 (R12). -/
def F32.frac (w : F32) : Nat := w.toNat % 2 ^ 23

/-- `is_nan` (R15). -/
def F32.isNaN (w : F32) : Bool := w.expo == 255 && w.frac != 0

/-- `is_finite` (R15): neither an infinity nor a NaN. -/
def F32.isFinite (w : F32) : Bool := w.expo != 255

/-- An infinity of either sign. -/
def F32.isInf (w : F32) : Bool := !w.isFinite && !w.isNaN

/-- The magnitude of a finite value in units of 2^-149: subnormals as they stand, the leading 1 of a
normal value restored. -/
def F32.mag (w : F32) : Nat :=
  if w.expo = 0 then w.frac else (2 ^ 23 + w.frac) * 2 ^ (w.expo - 1)

/-- A finite value in units of 2^-149. -/
def F32.exact (w : F32) : Int := if w.neg? then -(w.mag : Int) else w.mag

/-- +0.0. -/
def F32.zero : F32 := 0x00000000#32

/-- 1.0. -/
def F32.one : F32 := 0x3F800000#32

/-- 2.0. -/
def F32.two : F32 := 0x40000000#32

/-- 20.0. -/
def F32.twenty : F32 := 0x41A00000#32

/-- +infinity; its bits are also the bound every finite magnitude stays under. -/
def F32.inf : F32 := 0x7F800000#32

/-- `-v`: the sign bit flipped. -/
def fneg (w : F32) : F32 := w ^^^ 0x80000000#32

/-- `|v|`: the sign bit cleared. -/
def fabs (w : F32) : F32 := w &&& 0x7FFFFFFF#32

/-- The word with this sign and these magnitude bits. -/
def withSign (neg : Bool) (m : Nat) : F32 := BitVec.ofNat 32 (if neg then 2 ^ 31 + m else m)

/-- n / d to the nearest whole number, ties to even (R12). -/
def roundHalfEven (n d : Nat) : Nat :=
  let q := n / d
  let r := n % d
  if d < 2 * r ∨ (2 * r = d ∧ q % 2 = 1) then q + 1 else q

/-- The magnitude bits of the binary32 value nearest to n / d units of 2^-149: the unit in the last
place is 2^t times the smallest subnormal, with t such that at most 24 bits remain; a carry out of
the fraction moves the exponent up, and what passes the largest finite value is infinity. -/
def roundMag (n d : Nat) : Nat :=
  let t := Nat.log2 (n / d) - 23
  min (t * 2 ^ 23 + roundHalfEven n (d * 2 ^ t)) F32.inf.toNat

/-- The NaN a free choice stands for: the choice itself where it is a NaN, else a NaN made from it
(R12, U6; log 1). -/
def asNaN (w : F32) : F32 := if w.isNaN then w else w ||| 0x7FC00000#32

/-- The NaN a primitive of binary32 record j returns on these operands, which one being free (R12;
log 1). -/
def nanOf (j : Nat) (op : ArithOp) (a b : F32) : F32 := asNaN (Config.freeNaN j op a b)

/-- The sum of two values, none where it is a NaN: a NaN operand or infinities of opposite sign. An
exact zero sum is -0.0 only when both operands are negative zeros. -/
def sum? (a b : F32) : Option F32 :=
  if a.isNaN || b.isNaN then none
  else if a.isFinite then
    if b.isFinite then
      let z := a.exact + b.exact
      if z = 0 then some (withSign (a.neg? && b.neg?) 0)
      else some (withSign (decide (z < 0)) (roundMag z.natAbs 1))
    else some b
  else if b.isFinite || a.neg? == b.neg? then some a
  else none

/-- The product of two values, none where it is a NaN: a NaN operand or zero times infinity. -/
def product? (a b : F32) : Option F32 :=
  let neg := a.neg? != b.neg?
  if a.isNaN || b.isNaN then none
  else if a.isFinite && b.isFinite then some (withSign neg (roundMag (a.mag * b.mag) (2 ^ 149)))
  else if fabs a == F32.zero || fabs b == F32.zero then none
  else some (withSign neg F32.inf.toNat)

/-- The quotient of two values, none where it is a NaN: a NaN operand, zero by zero or infinity by
infinity. A finite non-zero value by zero is an infinity. -/
def quotient? (a b : F32) : Option F32 :=
  let neg := a.neg? != b.neg?
  if a.isNaN || b.isNaN then none
  else if a.isFinite then
    if b.isFinite then
      if fabs b == F32.zero then
        if fabs a == F32.zero then none else some (withSign neg F32.inf.toNat)
      else some (withSign neg (roundMag (a.mag * 2 ^ 149) b.mag))
    else some (withSign neg 0)
  else if b.isFinite then some (withSign neg F32.inf.toNat)
  else none

/-- The largest x with x * x ≤ n and x < 2^k added to `acc`, bit by bit from the top. -/
def sqrtBits (n : Nat) : Nat → Nat → Nat
  | 0, acc => acc
  | k + 1, acc =>
    let x := acc + 2 ^ k
    sqrtBits n k (if x * x ≤ n then x else acc)

/-- The square root of a value, none where it is a NaN: a NaN or a negative non-zero operand. The
root is taken with two bits below the unit, the last of them set when the root is not exact. -/
def root? (a : F32) : Option F32 :=
  if a.isNaN then none
  else if fabs a == F32.zero then some a
  else if a.neg? then none
  else if a.isFinite then
    let n := a.mag * 2 ^ 149 * 4
    let r := sqrtBits n 216 0
    some (withSign false (roundMag (2 * r + if r * r = n then 0 else 1) 4))
  else some a

/-- `fadd(a, b)` of binary32 record j (R12). -/
def fadd (j : Nat) (a b : F32) : F32 := (sum? a b).getD (nanOf j .add a b)

/-- `fsub(a, b)` of binary32 record j (R12): the sum with the negated operand, rounded once. -/
def fsub (j : Nat) (a b : F32) : F32 := (sum? a (fneg b)).getD (nanOf j .sub a b)

/-- `fmul(a, b)` of binary32 record j (R12). -/
def fmul (j : Nat) (a b : F32) : F32 := (product? a b).getD (nanOf j .mul a b)

/-- `fdiv(a, b)` of binary32 record j (R12). -/
def fdiv (j : Nat) (a b : F32) : F32 := (quotient? a b).getD (nanOf j .div a b)

/-- `fsqrt(a)` of binary32 record j (R12). -/
def fsqrt (j : Nat) (a : F32) : F32 := (root? a).getD (nanOf j .sqrt a F32.zero)

/-- The place of a non-NaN value in the IEEE order; both zeros stand at 0 (R15). -/
def F32.key (w : F32) : Int := if w.neg? then -((fabs w).toNat : Int) else (fabs w).toNat

/-- `a < b` (R15): false with a NaN. -/
def flt (a b : F32) : Bool := !a.isNaN && !b.isNaN && decide (a.key < b.key)

/-- `a <= b` (R15): false with a NaN. -/
def fle (a b : F32) : Bool := !a.isNaN && !b.isNaN && decide (a.key ≤ b.key)

/-- `a = b` (R15): false with a NaN, and +0.0 = -0.0. -/
def feq (a b : F32) : Bool := !a.isNaN && !b.isNaN && decide (a.key = b.key)

/-- `max_s(a, b)` (R15): b when a < b, else a. -/
def maxS (a b : F32) : F32 := if flt a b then b else a

/-- `f32(n)` of a natural number (R225, R230): exact for the numbers the block uses. -/
def f32OfNat (n : Nat) : F32 := withSign false (roundMag (n * 2 ^ 149) 1)

end Sys2Proof
end

