-- ==== Sys2Proof/Machine/Numeric.lean ====
section
/-! DEFINITION. The numeric record NUM of 00_scope.md R7, R12, R13 for every choice of it, and
`stage_mag` of 42_mono_chain.md R171, R172. Each function that is not arithmetic is a free function
of its operands, held within the limits the spec states and within no other. Where a free choice
breaks a limit, a legal value stands in for it. -/

namespace Sys2Proof

/-- `fadd` of a numeric record (R12; log 23). -/
def NumChoice.fadd (nm : NumChoice) (a b : F32) : F32 :=
  match nm with
  | .binary32 j => Sys2Proof.fadd j a b
  | .other j => Config.freeArith j .add a b

/-- `fsub` of a numeric record (R12; log 23). -/
def NumChoice.fsub (nm : NumChoice) (a b : F32) : F32 :=
  match nm with
  | .binary32 j => Sys2Proof.fsub j a b
  | .other j => Config.freeArith j .sub a b

/-- `fmul` of a numeric record (R12; log 23). -/
def NumChoice.fmul (nm : NumChoice) (a b : F32) : F32 :=
  match nm with
  | .binary32 j => Sys2Proof.fmul j a b
  | .other j => Config.freeArith j .mul a b

/-- `fdiv` of a numeric record (R12; log 23). -/
def NumChoice.fdiv (nm : NumChoice) (a b : F32) : F32 :=
  match nm with
  | .binary32 j => Sys2Proof.fdiv j a b
  | .other j => Config.freeArith j .div a b

/-- `fsqrt` of a numeric record (R12; log 23). -/
def NumChoice.fsqrt (nm : NumChoice) (a : F32) : F32 :=
  match nm with
  | .binary32 j => Sys2Proof.fsqrt j a
  | .other j => Config.freeArith j .sqrt a F32.zero

/-- `flog10` (R13): +0.0 at 1.0, finite and greater than zero at a finite operand above 1.0, free
elsewhere (log 2). -/
def flog10 (nm : NumChoice) (x : F32) : F32 :=
  if x = F32.one then F32.zero
  else if x.isFinite && flt F32.one x then
    let y := Config.freeLog10 nm x
    if y.isFinite && flt F32.zero y then y else F32.one
  else Config.freeLog10 nm x

/-- `fcos` (R13): 1.0 at +0.0, free elsewhere (log 3). -/
def fcos (nm : NumChoice) (x : F32) : F32 := if x = F32.zero then F32.one else Config.freeCos nm x

/-- `fsin` (R13): +0.0 at +0.0, free elsewhere (log 3). -/
def fsin (nm : NumChoice) (x : F32) : F32 := if x = F32.zero then F32.zero else Config.freeSin nm x

/-- A value that is a NaN or has sign bit 0 (R13): a NaN is kept, else the sign is cleared. -/
def nanOrPositive (w : F32) : F32 := if w.isNaN then w else fabs w

/-- `fmag2` (R13): |a| when the second operand is +0.0 and a is no NaN, elsewhere free but a NaN or
of sign bit 0 (log 3). -/
def fmag2 (nm : NumChoice) (a b : F32) : F32 :=
  if b = F32.zero ∧ a.isNaN = false then fabs a else nanOrPositive (Config.freeMag2 nm a b)

/-- Whether every value of a list is a zero, of any sign (R224). -/
def allZero (v : List F32) : Bool := v.all fun x => fabs x == F32.zero

/-- `DFTMAG` (R224): the bins 0..count-1 of the magnitude spectrum, all +0.0 for an all-zero input,
elsewhere free but each a NaN or of sign bit 0 (log 4). -/
def dftmag (nm : NumChoice) (v : List F32) (count : Nat) : List F32 :=
  if allZero v then List.replicate count F32.zero
  else (List.range count).map fun k => nanOrPositive (Config.freeDftBin nm v k)

/-- 2 cos(2 pi hz / sr) where it is a whole number, for whole hz and sr > 0. These are the only
angles at which the cosine of a rational part of a turn is rational (log 5). -/
def twiceCos? (hz sr : Int) : Option Int :=
  let r := hz % sr
  if r = 0 then some 2
  else if 2 * r = sr then some (-2)
  else if 4 * r = sr ∨ 4 * r = 3 * sr then some 0
  else if 3 * r = sr ∨ 3 * r = 2 * sr then some (-1)
  else if 6 * r = sr ∨ 6 * r = 5 * sr then some 1
  else none

/-- Whether the denominator of R171 is zero at w = 2 pi f / SRATE over the real numbers, for finite
operands and SRATE > 0: a pole on the unit circle. Where sin(w) = 0 that is 1 + a1 cos(w) + a2 = 0,
elsewhere a2 = 1 and a1 = -2 cos(w); a1, f and SRATE are rational, so 2 cos(w) has to be a whole
number. No bound on f is used: `fdiv(SRATE, 2.0)` may round up to more than SRATE / 2 (log 5). -/
def poleAt (a1 a2 f srate : F32) : Bool :=
  let one := F32.one.exact
  match twiceCos? f.exact srate.exact with
  | none => false
  | some c =>
    if c = 2 ∨ c = -2 then decide (2 * one + c * a1.exact + 2 * a2.exact = 0)
    else decide (a2.exact = one ∧ a1.exact = -(c * one))

/-- A value that is an infinity or a NaN (R172): such a value is kept, else +infinity. -/
def notFinite (w : F32) : F32 := if w.isFinite then F32.inf else w

/-- Whether a set is a pure gain (g, 0, 0, 0, 0) with finite g (R172), the identity set among them. -/
def pureGain (k : Coef) : Bool :=
  decide (k.b1 = F32.zero ∧ k.b2 = F32.zero ∧ k.a1 = F32.zero ∧ k.a2 = F32.zero) && k.b0.isFinite

/-- `stage_mag` (R171, R172): |b0| for a pure gain; at f = 0 the quotient
|b0 + b1 + b2| / |1 + a1 + a2| computed in S; an infinity or a NaN at a pole; elsewhere free
(log 5). At f = 0 two of these can disagree in an arithmetic other than binary32; that the gain holds
over the quotient, and the quotient over the pole where 1 + a1 + a2 = 0, is the model's choice
(DESIGN CHOICE, log 24). -/
def stageMag (nm : NumChoice) (k : Coef) (f srate : F32) : F32 :=
  if pureGain k then fabs k.b0
  else if feq f F32.zero then
    nm.fdiv (fabs (nm.fadd (nm.fadd k.b0 k.b1) k.b2)) (fabs (nm.fadd (nm.fadd F32.one k.a1) k.a2))
  else if k.a1.isFinite && k.a2.isFinite && f.isFinite && srate.isFinite && flt F32.zero srate
      && poleAt k.a1 k.a2 f srate then
    notFinite (Config.freeStageMag nm k f srate)
  else Config.freeStageMag nm k f srate

/-- The numeric record a choice names (R7, R8): what the machine computes with. -/
def NumChoice.record (nm : NumChoice) : NumRecord where
  fadd := nm.fadd
  fsub := nm.fsub
  fmul := nm.fmul
  fdiv := nm.fdiv
  fsqrt := nm.fsqrt
  flog10 := Sys2Proof.flog10 nm
  fcos := Sys2Proof.fcos nm
  fsin := Sys2Proof.fsin nm
  fmag2 := Sys2Proof.fmag2 nm
  dftmag := Sys2Proof.dftmag nm
  stageMag := Sys2Proof.stageMag nm

end Sys2Proof
end

