-- ==== Sys2Proof/Machine/Ops.lean ====
section
/-! DEFINITION. The named operations the commands share: reading and writing an indexed piece of
state, the response packet, taking a fault and clearing fault bits, reading and writing a CSR, and
the two primitives of the sample queue. -/

namespace Sys2Proof.Machine

def Chans.get {α : Type} (x : Chans α) : Chan → α
  | .l => x.l
  | .r => x.r

def Chans.set {α : Type} (x : Chans α) (c : Chan) (y : α) : Chans α :=
  match c with
  | .l => { x with l := y }
  | .r => { x with r := y }

def Ports.get {α : Type} (x : Ports α) : PortId → α
  | .a => x.a
  | .v => x.v

def Ports.set {α : Type} (x : Ports α) (p : PortId) (y : α) : Ports α :=
  match p with
  | .a => { x with a := y }
  | .v => { x with v := y }

def Cuts.get {α : Type} (x : Cuts α) : Cut → α
  | .lc => x.lc
  | .hc => x.hc

def Cuts.set {α : Type} (x : Cuts α) (c : Cut) (y : α) : Cuts α :=
  match c with
  | .lc => { x with lc := y }
  | .hc => { x with hc := y }

def Secs.get {α : Type} (x : Secs α) : Sec → α
  | .s0 => x.s0
  | .s1 => x.s1
  | .s2 => x.s2
  | .s3 => x.s3

def Secs.set {α : Type} (x : Secs α) (s : Sec) (y : α) : Secs α :=
  match s with
  | .s0 => { x with s0 := y }
  | .s1 => { x with s1 := y }
  | .s2 => { x with s2 := y }
  | .s3 => { x with s3 := y }

def Poss.get {α : Type} (x : Poss α) : Pos → α
  | .cut .lc => x.lc
  | .peak .pk1 => x.pk1
  | .peak .pk2 => x.pk2
  | .peak .pk3 => x.pk3
  | .cut .hc => x.hc

def Poss.set {α : Type} (x : Poss α) (p : Pos) (y : α) : Poss α :=
  match p with
  | .cut .lc => { x with lc := y }
  | .peak .pk1 => { x with pk1 := y }
  | .peak .pk2 => { x with pk2 := y }
  | .peak .pk3 => { x with pk3 := y }
  | .cut .hc => { x with hc := y }

/-- The entry at a stage address (R21). -/
def Bank.get {α : Type} (x : Bank α) : Stage → α
  | .cut .lc s => x.lc.get s
  | .peak .pk1 => x.pk1
  | .peak .pk2 => x.pk2
  | .peak .pk3 => x.pk3
  | .cut .hc s => x.hc.get s

/-- The bank with the entry at a stage address replaced (R21). -/
def Bank.set {α : Type} (x : Bank α) (st : Stage) (y : α) : Bank α :=
  match st with
  | .cut .lc s => { x with lc := x.lc.set s y }
  | .peak .pk1 => { x with pk1 := y }
  | .peak .pk2 => { x with pk2 := y }
  | .peak .pk3 => { x with pk3 := y }
  | .cut .hc s => { x with hc := x.hc.set s y }

/-- The words of one packet on a response stream: `last` on the final word, `err` on every word
(R61, R275). -/
def rspPacket (err : Bool) : List Word → List RspBeat
  | [] => []
  | [w] => [⟨w, true, err⟩]
  | w :: ws => ⟨w, false, err⟩ :: rspPacket err ws

/-- One packet emitted on the response stream of a port. -/
def emit (p : PortId) (err : Bool) (ws : List Word) (s : State) : State :=
  { s with io := s.io.set p { s.io.get p with rsp := (s.io.get p).rsp ++ rspPacket err ws } }

/-- `respond(ws)` (00_scope.md R10). -/
def respond (p : PortId) (ws : List Word) (s : State) : State := emit p false ws s

/-- TAKING A FAULT, the one entry for every command and port (60_exceptions.md R274, R275): the
sticky bit of the code is set, one error packet of one word holding the code goes out, and nothing
else changes. -/
def takeFault (p : PortId) (k : FaultCode) (s : State) : State :=
  emit p true [BitVec.ofNat 32 k.toNat]
    { s with fstat := s.fstat.set p (faultSet k (s.fstat.get p)) }

/-- What undoes a fault entry: no command returns from a fault, its sticky bits are cleared by a
write of FCLR from the same port (60_exceptions.md R280, 10_state.md R40). -/
def clearFaults (p : PortId) (w : Word) (s : State) : State :=
  { s with fstat := s.fstat.set p (faultClear w (s.fstat.get p)) }

/-- `csr_read(port, a)` at a defined address (R36 to R47); FCLR reads 0. -/
def csrRead (p : PortId) (r : Csr) (s : State) : Word :=
  match r with
  | .id => 0x53455131#32
  | .fstat => fstatWord (s.fstat.get p) s.prepared s.dirty
  | .fclr => 0#32
  | .srate => s.srate
  | .maxblk => BitVec.ofNat 32 s.maxblk
  | .ctrl => ctrlWord s.anen
  | .floor => s.floor
  | .slope => slopeWord s.slope
  | .bypass => bypassWord s.pbyp s.sbyp
  | .fftord => BitVec.ofNat 32 s.cfg.order
  | .qcap => BitVec.ofNat 32 s.cfg.qcap
  | .fcap => BitVec.ofNat 32 s.cfg.fcap

/-- What a CSR write answers: done, or the code of the fault it is refused with. -/
inductive CsrWrite where
  | done (s : State)
  | refused (k : FaultCode)

/-- Whether a word is a legal FLOOR: finite and less than zero (R44, R279). -/
def legalFloor (w : F32) : Bool := w.isFinite && flt w F32.zero

/-- `csr_write(port, a, w)` at a defined address (R37, R40, R43, R44; 46_system.md R258): a register
the port may only read refuses with code 2, an illegal FLOOR with code 5. -/
def csrWrite (p : PortId) (r : Csr) (w : Word) (s : State) : CsrWrite :=
  match p, r with
  | p, .fclr => .done (clearFaults p w s)
  | .v, .ctrl => .done { s with anen := w.getLsbD 0 }
  | .v, .floor => if legalFloor w then .done { s with floor := w } else .refused .range
  | _, _ => .refused .field

/-- `q_push_sample(c, v)` (44_sample_queue.md R193, R194): the sample joins the accumulator; when
that fills it to MAXBLK samples, the block joins the queue if the queue has room and is dropped if
not, and the accumulator is emptied either way. -/
def qPush (c : Chan) (v : F32) (s : State) : State :=
  let blk := s.acc.get c ++ [v]
  let full := blk.length = s.maxblk
  { s with
    acc := s.acc.set c (if full then [] else blk)
    queue := s.queue.set c
      (if full ∧ (s.queue.get c).length < s.cfg.qcap then s.queue.get c ++ [blk]
       else s.queue.get c) }

/-- `q_pull(c)` (R196): none on an empty queue, else the oldest block, removed. -/
def qPull (c : Chan) (s : State) : Option (List F32 × State) :=
  match s.queue.get c with
  | [] => none
  | blk :: rest => some (blk, { s with queue := s.queue.set c rest })

/-- `roll_shift(c, blk)` (45_analyzer.md R214): the buffer moves left by the block length and the
block is appended at the tail. -/
def rollShift (c : Chan) (blk : List F32) (s : State) : State :=
  { s with roll := s.roll.set c ((s.roll.get c).drop blk.length ++ blk) }

end Sys2Proof.Machine
end

