-- ==== Sys2Proof/Machine/Window.lean ====
section
/-! DEFINITION. The window table WIN (45_analyzer.md R220 to R222). The default, the symmetric 4-term
Blackman-Harris window, is computed with whole numbers in units of 2^-128 and rounded once to
binary32 (log 7). -/

namespace Sys2Proof

/-- 2 pi in units of 2^-128, to the nearest whole number. -/
def twoPi : Int := 2138057168129933495719360746323741566601

/-- The cosine series cut after `fuel` more terms: `term` is the current one, `k` the number of
factors so far and `sq` the squared angle, all in units of 2^-128. -/
def cosSeries (sq : Int) : Nat → Nat → Int → Int
  | 0, _, term => term
  | fuel + 1, k, term =>
    term + cosSeries sq fuel (k + 2) (-(term * sq) / (2 ^ 128 * ((k + 1) * (k + 2) : Nat)))

/-- cos(2 pi n / m) in units of 2^-128, the angle folded into [0, pi]. -/
def cosTurn (n m : Nat) : Int :=
  let r := n % m
  let x := twoPi * (min r (m - r) : Nat) / m
  cosSeries (x * x / 2 ^ 128) 32 0 (2 ^ 128)

/-- Entry n of the default window for a length `len` ≥ 2 (R222): the sum of R222 with its four
decimal coefficients, cos(2x) and cos(3x) written in cos(x), rounded to the nearest binary32 value. -/
def blackmanHarris (len n : Nat) : F32 :=
  let u : Int := 2 ^ 128
  let c := cosTurn n (len - 1)
  let c2 := 2 * c * c - u * u
  let c3 := 4 * c * c * c - 3 * c * u * u
  let v := 35875 * (u * u * u) - 48829 * (c * u * u) + 14128 * (c2 * u) - 1168 * c3
  withSign (decide (v < 0)) (roundMag (v.natAbs * 2 ^ 149) (100000 * 2 ^ 384))

/-- The table WIN of `len` values (R220). -/
def Window.values (len : Nat) : Window → List F32
  | .blackmanHarris => (List.range len).map (Sys2Proof.blackmanHarris len)
  | .table ws => ws

end Sys2Proof
end

