-- ==== Sys2Proof/Machine/Analyzer.lean ====
section
/-! DEFINITION. The Spectrum Analyzer Pipeline (45_analyzer.md): PULL, FFTRUN, PATHGEN, RDFRAME,
RDPATH and TICK, all of port V. -/

namespace Sys2Proof.Machine

/-- The state change of a pull that finds a block, one micro-step (R213, R240): the oldest block
leaves the queue and enters the rolling buffer; none on an empty queue. -/
def pullStep (c : Chan) (s : State) : Option State :=
  match qPull c s with
  | none => none
  | some (blk, s') => some (rollShift c blk s')

/-- `to_db` (R226). -/
def toDb (nm : NumRecord) (floor m : F32) : F32 :=
  if m.isFinite && flt F32.zero m then maxS floor (nm.fmul F32.twenty (nm.flog10 m)) else floor

/-- `spectrum_db` (R227): window, transform, normalise by N/2, convert to decibels. -/
def spectrumDb (cfg : Config) (floor : F32) (u : List F32) : List F32 :=
  let nm := cfg.num.record
  let v := List.zipWith nm.fmul (cfg.win.values cfg.n) u
  (nm.dftmag v (cfg.n / 2)).map fun m => toDb nm floor (nm.fdiv m (f32OfNat (cfg.n / 2)))

/-- Whether the frame queue of a channel has room (R228). -/
def frameRoom (c : Chan) (s : State) : Bool := decide ((s.fq.get c).length < s.cfg.fcap)

/-- The state change of an FFT, one micro-step (R228, R240): one frame of the rolling buffer joins
the frame queue, or is dropped when that is full. -/
def fftStep (c : Chan) (s : State) : State :=
  { s with
    fq := s.fq.set c
      (if frameRoom c s then s.fq.get c ++ [spectrumDb s.cfg s.floor (s.roll.get c)]
       else s.fq.get c) }

/-- `binfreq(k)` (R230). -/
def binFreq (cfg : Config) (srate : F32) (k : Nat) : F32 :=
  cfg.num.record.fdiv (cfg.num.record.fmul (f32OfNat k) srate) (f32OfNat cfg.n)

/-- `xmap` (R231). -/
def xMap (cfg : Config) (f left width : F32) : F32 :=
  let nm := cfg.num.record
  nm.fadd left (nm.fmul width
    (nm.fdiv (nm.flog10 (nm.fdiv f cfg.fmin)) (nm.flog10 (nm.fdiv cfg.fmax cfg.fmin))))

/-- `ymap` (R232). -/
def yMap (nm : NumRecord) (floor d top height : F32) : F32 :=
  let bottom := nm.fadd top height
  nm.fadd bottom
    (nm.fmul (nm.fdiv (nm.fsub d floor) (nm.fsub F32.zero floor)) (nm.fsub top bottom))

/-- Whether a bin's frequency is inside the mapped range (R233). -/
def inRange (cfg : Config) (f : F32) : Bool := fle cfg.fmin f && fle f cfg.fmax

/-- The point of bin k with decibel value d, where the bin is in range (R233). -/
def binPoint (cfg : Config) (srate floor : F32) (b : Bounds) (k : Nat) (d : F32) : Option Point :=
  let f := binFreq cfg srate k
  if inRange cfg f then some ⟨xMap cfg f b.left b.width, yMap cfg.num.record floor d b.top b.height⟩
  else none

/-- The points of the bins from k on, in increasing bin order (R233). -/
def pathFrom (cfg : Config) (srate floor : F32) (b : Bounds) : Nat → List F32 → List Point
  | _, [] => []
  | k, d :: ds =>
    (binPoint cfg srate floor b k d).toList ++ pathFrom cfg srate floor b (k + 1) ds

/-- `make_path` (R233). -/
def makePath (cfg : Config) (srate floor : F32) (b : Bounds) (frame : List F32) : List Point :=
  pathFrom cfg srate floor b 0 frame

/-- The state change of PATHGEN from "cnt = ..." on, one micro-step (R234, R235, R240): the newest
pending frame becomes the current one and every pending frame leaves the queue; nothing happens when
none is pending. -/
def pathStep (c : Chan) (b : Bounds) (s : State) : State :=
  match (s.fq.get c).getLast? with
  | none => s
  | some frame =>
    { s with
      fq := s.fq.set c []
      curframe := s.curframe.set c (some frame)
      curpath := s.curpath.set c (makePath s.cfg s.srate s.floor b frame) }

/-- A count as a response word (R104). -/
def countWord (n : Nat) : Word := BitVec.ofNat 32 n

/-- PULL (R213). -/
def execPull (c : Chan) (s : State) : Out State :=
  if s.prepared = false then .next (takeFault .v .notprep s)
  else if s.anen = false then .next (respond .v [countWord 0] s)
  else
    match pullStep c s with
    | none => .next (respond .v [countWord 0] s)
    | some s' => .next (respond .v [countWord 1] s')

/-- FFTRUN (R228). -/
def execFftrun (c : Chan) (s : State) : Out State :=
  if s.prepared = false then .next (takeFault .v .notprep s)
  else if s.anen = false then .next (respond .v [countWord 0] s)
  else .next (respond .v [countWord (frameRoom c s).toNat] (fftStep c s))

/-- Whether all four bounds are finite (R234, 60_exceptions.md R279). -/
def Bounds.isFinite (b : Bounds) : Bool :=
  b.left.isFinite && b.top.isFinite && b.width.isFinite && b.height.isFinite

/-- The checks of PATHGEN and TICK, NOTPREP before RANGE (R234, R240). -/
def boundsCheck (b : Bounds) (s : State) : Option FaultCode :=
  if s.prepared = false then some .notprep
  else if Bounds.isFinite b then none
  else some .range

/-- PATHGEN (R234). -/
def execPathgen (c : Chan) (b : Bounds) (s : State) : Out State :=
  match boundsCheck b s with
  | some k => .next (takeFault .v k s)
  | none =>
    if s.anen = false then .next (respond .v [countWord 0] s)
    else .next (respond .v [countWord (s.fq.get c).length] (pathStep c b s))

/-- RDFRAME (R236): the count of values and the values of the current frame, the single word 0 when
there is none. -/
def execRdframe (c : Chan) (s : State) : Out State :=
  match s.curframe.get c with
  | none => .next (respond .v [countWord 0] s)
  | some frame => .next (respond .v (countWord (s.cfg.n / 2) :: frame) s)

/-- The two words of a point (R237). -/
def Point.words (p : Point) : List Word := [p.x, p.y]

/-- RDPATH (R237). -/
def execRdpath (c : Chan) (s : State) : Out State :=
  let path := s.curpath.get c
  .next (respond .v (countWord path.length :: path.flatMap Point.words) s)

/-- The pulls of a TICK on one channel, an FFT after each, `fuel` of them at most (R240). -/
def tickPulls (c : Chan) : Nat → State → State
  | 0, s => s
  | fuel + 1, s =>
    match pullStep c s with
    | none => s
    | some s' => tickPulls c fuel (fftStep c s')

/-- One channel of a TICK: at most QCAP pulls, then the path (R240). -/
def tickChannel (c : Chan) (b : Bounds) (s : State) : State :=
  pathStep c b (tickPulls c s.cfg.qcap s)

/-- TICK run whole (R240); it has no response packet. -/
def execTick (b : Bounds) (s : State) : Out State :=
  match boundsCheck b s with
  | some k => .next (takeFault .v k s)
  | none =>
    if s.anen = false then .next s
    else .next (tickChannel .r b (tickChannel .l b s))

end Sys2Proof.Machine
end

