-- ==== Sys2Proof/Machine/FilterStage.lean ====
section
/-! DEFINITION. The Filter Stage (40_filter_stage.md): the per-sample operation of one biquad, and
SETCOEF, SETBYP, RDCOEF, RDDLY. -/

namespace Sys2Proof.Machine

/-- What the filters read besides their delay records: COEF and the bypass flags, shared by both
channels (10_state.md R23). -/
structure Settings where
  coef : Bank Coef
  pbyp : Poss Bool
  sbyp : Cuts (Secs Bool)
deriving DecidableEq, Repr

/-- The settings a state holds. -/
def State.settings (s : State) : Settings := ⟨s.coef, s.pbyp, s.sbyp⟩

/-- The numeric record a state computes with (R7, R8). -/
def State.num (s : State) : NumRecord := s.cfg.num.record

/-- `biquad_step` (R122): Direct Form I in the order of the rule, each operation rounded once;
answers the output and the new delay record. -/
def biquadStep (nm : NumRecord) (k : Coef) (d : Delay) (x : F32) : F32 × Delay :=
  let t := nm.fmul k.b0 x
  let t := nm.fadd t (nm.fmul k.b1 d.x1)
  let t := nm.fadd t (nm.fmul k.b2 d.x2)
  let t := nm.fsub t (nm.fmul k.a1 d.y1)
  let t := nm.fsub t (nm.fmul k.a2 d.y2)
  (t, ⟨x, d.x1, t, d.y1⟩)

/-- The bypass flag of a stage: SBYP for a cut section, constantly 0 for a peak (R31, R124). -/
def stageBypass (g : Settings) : Stage → Bool
  | .cut c s => (g.sbyp.get c).get s
  | .peak _ => false

/-- The biquad at a stage address, over one channel's delay records (R122). -/
def biquadAt (nm : NumRecord) (g : Settings) (st : Stage) (d : Bank Delay) (x : F32) : F32 × Bank Delay :=
  let r := biquadStep nm (g.coef.get st) (d.get st) x
  (r.1, d.set st r.2)

/-- `stage_step` (R124): a bypassed stage passes its input on and touches nothing (R125). -/
def stageStep (nm : NumRecord) (g : Settings) (st : Stage) (d : Bank Delay) (x : F32) : F32 × Bank Delay :=
  if stageBypass g st then (x, d) else biquadAt nm g st d x

/-- SETCOEF (R128). -/
def execSetcoef (st : Stage) (k : Coef) (s : State) : Out State :=
  .next { s with coef := s.coef.set st k }

/-- SETBYP (R130). -/
def execSetbyp (pos : Pos) (flag : Bool) (s : State) : Out State :=
  .next { s with pbyp := s.pbyp.set pos flag }

/-- RDCOEF (R131). -/
def execRdcoef (st : Stage) (s : State) : Out State :=
  .next (respond .a (s.coef.get st).words s)

/-- The four response words of RDDLY (R132). -/
def Delay.words (d : Delay) : List Word := [d.x1, d.x2, d.y1, d.y2]

/-- RDDLY (R132). -/
def execRddly (st : Stage) (ch : Chan) (s : State) : Out State :=
  .next (respond .a ((s.dly.get ch).get st).words s)

end Sys2Proof.Machine
end

