-- ==== Sys2Proof/Machine/CutChain.lean ====
section
/-! DEFINITION. The Cut Filter Chain (41_cut_chain.md): its per-sample operation and CUTUPD. -/

namespace Sys2Proof.Machine

/-- The sections in cascade order (R141). -/
def Sec.order : List Sec := [.s0, .s1, .s2, .s3]

/-- `cut_step` (R141): the four sections in order, each honouring its own bypass flag. -/
def cutStep (nm : NumRecord) (g : Settings) (c : Cut) (d : Bank Delay) (x : F32) : F32 × Bank Delay :=
  Sec.order.foldl (fun r s => stageStep nm g (.cut c s) r.2 r.1) (x, d)

/-- Coefficient sets loaded into the sections of a chain from section 0 on; the sections past the
list keep theirs (R143, R145). -/
def loadSections (old : Secs Coef) (sets : List Coef) : Secs Coef :=
  ⟨sets.getD 0 old.s0, sets.getD 1 old.s1, sets.getD 2 old.s2, sets.getD 3 old.s3⟩

/-- The coefficients of a chain. -/
def Bank.chain {α : Type} (b : Bank α) : Cut → Secs α
  | .lc => b.lc
  | .hc => b.hc

/-- The bank with the coefficients of a chain replaced. -/
def Bank.setChain {α : Type} (b : Bank α) (c : Cut) (x : Secs α) : Bank α :=
  match c with
  | .lc => { b with lc := x }
  | .hc => { b with hc := x }

/-- CUTUPD (R143): sections 0..s get their sets and become active, the others become bypassed and
keep their coefficients; a payload that is not s + 1 sets is fault LEN. -/
def execCutupd (c : Cut) (slope : Sec) (sets : List Coef) (s : State) : Out State :=
  if sets.length = slope.toNat + 1 then
    .next { s with
      coef := s.coef.setChain c (loadSections (s.coef.chain c) sets)
      sbyp := s.sbyp.set c (slopeBypass slope)
      slope := s.slope.set c slope }
  else .next (takeFault .a .len s)

end Sys2Proof.Machine
end

