-- ==== Sys2Proof/Machine/MonoChain.lean ====
section
/-! DEFINITION. The Mono Processing Chain and the stereo pair (42_mono_chain.md): the per-sample
operation of the five positions, PROC, and the magnitude query MAGQ. -/

namespace Sys2Proof.Machine

/-- The positions in the fixed order LowCut, Peak1, Peak2, Peak3, HighCut (R21). -/
def Pos.order : List Pos := [.cut .lc, .peak .pk1, .peak .pk2, .peak .pk3, .cut .hc]

/-- `pos_step` (R156). -/
def posStep (nm : NumRecord) (g : Settings) (p : Pos) (d : Bank Delay) (x : F32) : F32 × Bank Delay :=
  match p with
  | .cut c => cutStep nm g c d x
  | .peak k => biquadAt nm g (.peak k) d x

/-- `chain_step` (R156): a bypassed position passes the word on and touches none of its records. -/
def chainStep (nm : NumRecord) (g : Settings) (d : Bank Delay) (x : F32) : F32 × Bank Delay :=
  Pos.order.foldl (fun r p => if g.pbyp.get p then r else posStep nm g p r.2 r.1) (x, d)

/-- A filter step of PROC (R75, R160): one sample of a channel through its chain. -/
def filterStep (c : Chan) (x : F32) (s : State) : F32 × State :=
  let r := chainStep s.num s.settings (s.dly.get c) x
  (r.1, { s with dly := s.dly.set c r.2 })

/-- One sample of PROC: its filter step, then its push step (R160). -/
def procSample (c : Chan) (x : F32) (s : State) : F32 × State :=
  let r := filterStep c x s
  (r.1, qPush c r.1 r.2)

/-- All samples of one channel, in order; answers the outputs and the state (R160). -/
def procChannel (c : Chan) : List F32 → State → List F32 × State
  | [], s => ([], s)
  | x :: xs, s =>
    let r := procSample c x s
    let rest := procChannel c xs r.2
    (r.1 :: rest.1, rest.2)

/-- The channels one after the other; answers the outputs of all of them, planar (R160). -/
def procChannels (n : Nat) (payload : List F32) : List Chan → State → List F32 × State
  | [], s => ([], s)
  | c :: cs, s =>
    let r := procChannel c (planar n payload c) s
    let rest := procChannels n payload cs r.2
    (r.1 ++ rest.1, rest.2)

/-- The two state checks of PROC, NOTPREP before RANGE (R160, R161). -/
def procCheck (n : Nat) (s : State) : Option FaultCode :=
  if s.prepared = false then some .notprep
  else if s.maxblk < n then some .range
  else none

/-- PROC run whole, in the order R160 writes; no response packet when n = 0 (R164). A payload that
is not n * nch words is fault LEN. -/
def execProc (nch : ChanCount) (n : BitVec 16) (payload : List F32) (s : State) : Out State :=
  if payload.length = n.toNat * nch.toNat then
    match procCheck n.toNat s with
    | some k => .next (takeFault .a k s)
    | none =>
      let r := procChannels n.toNat payload nch.chans s
      .next (respond .a r.1 r.2)
  else .next (takeFault .a .len s)

/-- The stage addresses in chain order, position then section (R170). -/
def Stage.order : List Stage :=
  [.cut .lc .s0, .cut .lc .s1, .cut .lc .s2, .cut .lc .s3, .peak .pk1, .peak .pk2, .peak .pk3,
    .cut .hc .s0, .cut .hc .s1, .cut .hc .s2, .cut .hc .s3]

/-- Whether a stage is enabled: neither its position nor its section is bypassed (R170). -/
def stageEnabled (g : Settings) (st : Stage) : Bool := !g.pbyp.get st.pos && !stageBypass g st

/-- The magnitude of the chain's response at a frequency (R170): the product over the enabled
stages in chain order, one rounding for each multiplication, starting from 1.0. -/
def chainMag (nm : NumRecord) (g : Settings) (f srate : F32) : F32 :=
  (Stage.order.filter (stageEnabled g)).foldl
    (fun m st => nm.fmul m (nm.stageMag (g.coef.get st) f srate)) F32.one

/-- Whether f is in range for MAGQ: finite and 0 ≤ f ≤ SRATE / 2 (R170, 60_exceptions.md R279). -/
def legalFreq (nm : NumRecord) (f srate : F32) : Bool :=
  f.isFinite && fle F32.zero f && fle f (nm.fdiv srate F32.two)

/-- MAGQ (R170). -/
def execMagq (f : F32) (s : State) : Out State :=
  if s.prepared = false then .next (takeFault .a .notprep s)
  else if legalFreq s.num f s.srate then .next (respond .a [chainMag s.num s.settings f s.srate] s)
  else .next (takeFault .a .range s)

end Sys2Proof.Machine
end

