-- ==== Sys2Proof/Machine/System.lean ====
section
/-! DEFINITION. The system commands and the parameters-changed flag (46_system.md): NOP, PREPARE,
RDCSR, WRCSR, TCDIRTY and the `param_changed` event. -/

namespace Sys2Proof.Machine

/-- NOP (R250). -/
def execNop (_ : PortId) (s : State) : Out State := .next s

/-- The operands PREPARE accepts: a finite rate above zero and a block size of 1..N (R252, R255). -/
def legalSession (n : Nat) (srate : F32) (maxblk : Nat) : Bool :=
  srate.isFinite && flt F32.zero srate && decide (1 ≤ maxblk) && decide (maxblk ≤ n)

/-- A session started with these values (R252): delay records, queues and analyzer buffers cleared;
COEF, PBYP, SBYP, SLOPE, ANEN, FLOOR, DIRTY and both FSTATs kept (R253). -/
def startSession (srate : F32) (maxblk : Nat) (s : State) : State :=
  { s with
    srate := srate
    maxblk := maxblk
    prepared := true
    dly := .all (.all .zero)
    acc := .all []
    queue := .all []
    roll := .all (List.replicate s.cfg.n F32.zero)
    fq := .all []
    curframe := .all none
    curpath := .all [] }

/-- PREPARE (R252). -/
def execPrepare (srate : F32) (maxblk : Word) (s : State) : Out State :=
  if legalSession s.cfg.n srate maxblk.toNat then .next (startSession srate maxblk.toNat s)
  else .next (takeFault .a .range s)

/-- RDCSR (R257). -/
def execRdcsr (p : PortId) (r : Csr) (s : State) : Out State :=
  .next (respond p [csrRead p r s] s)

/-- WRCSR (R258). -/
def execWrcsr (p : PortId) (r : Csr) (w : Word) (s : State) : Out State :=
  match csrWrite p r w s with
  | .done s' => .next s'
  | .refused k => .next (takeFault p k s)

/-- The `param_changed` event (R262). -/
def paramChanged (s : State) : State := { s with dirty := true }

/-- TCDIRTY (R263). -/
def execTcdirty (s : State) : Out State :=
  .next (respond .v [BitVec.ofNat 32 s.dirty.toNat] { s with dirty := false })

end Sys2Proof.Machine
end

