-- ==== Sys2Proof/Machine/Dispatch.lean ====
section
/-! DEFINITION. The meaning of every command, one arm for each constructor of `Instr`. -/

namespace Sys2Proof.Machine

def exec (i : Instr) (s : State) : Host.Outcome State Fault Refusal :=
  match i with
  | .nop port => Sys2Proof.Machine.execNop port s
  | .prepare srate maxblk => Sys2Proof.Machine.execPrepare srate maxblk s
  | .setcoef st k => Sys2Proof.Machine.execSetcoef st k s
  | .setbyp pos flag => Sys2Proof.Machine.execSetbyp pos flag s
  | .cutupd cut slope sets => Sys2Proof.Machine.execCutupd cut slope sets s
  | .proc nch n payload => Sys2Proof.Machine.execProc nch n payload s
  | .magq f => Sys2Proof.Machine.execMagq f s
  | .rdcsr port reg => Sys2Proof.Machine.execRdcsr port reg s
  | .wrcsr port reg value => Sys2Proof.Machine.execWrcsr port reg value s
  | .rdcoef st => Sys2Proof.Machine.execRdcoef st s
  | .rddly st ch => Sys2Proof.Machine.execRddly st ch s
  | .pull ch => Sys2Proof.Machine.execPull ch s
  | .fftrun ch => Sys2Proof.Machine.execFftrun ch s
  | .pathgen ch bounds => Sys2Proof.Machine.execPathgen ch bounds s
  | .rdframe ch => Sys2Proof.Machine.execRdframe ch s
  | .rdpath ch => Sys2Proof.Machine.execRdpath ch s
  | .tick bounds => Sys2Proof.Machine.execTick bounds s
  | .tcdirty => Sys2Proof.Machine.execTcdirty s

end Sys2Proof.Machine
end

