-- ==== Sys2Proof/Machine/Micro.lean ====
section
/-! DEFINITION. PROC and TICK taken apart into their micro-steps (20_memory.md R75, 45_analyzer.md
R240), for the executions in which another agent acts between two of them. Each micro-step is the
shared operation the whole command is made of. -/

namespace Sys2Proof.Machine

/-- A lane before its first micro-step. -/
def Lane.start (xs : List F32) : Lane := ⟨xs, [], []⟩

/-- The lane of a channel; a mono block has none on the right. -/
def ProcRun.lane? (r : ProcRun) : Chan → Option Lane
  | .l => some r.l
  | .r => r.r

/-- The run with the lane of a channel replaced. -/
def ProcRun.setLane (r : ProcRun) (c : Chan) (ln : Lane) : ProcRun :=
  match c with
  | .l => { r with l := ln }
  | .r => { r with r := some ln }

/-- A PROC before its first micro-step (R160). -/
def ProcRun.start (nch : ChanCount) (n : Nat) (payload : List F32) : ProcRun where
  l := .start (planar n payload .l)
  r := match nch with
    | .mono => none
    | .stereo => some (.start (planar n payload .r))

/-- Whether every sample of a lane is filtered and pushed. -/
def Lane.finished (ln : Lane) : Bool := ln.todo.isEmpty && ln.pend.isEmpty

/-- Whether every lane is finished: only the response step is left (R75). -/
def ProcRun.finished (r : ProcRun) : Bool :=
  r.l.finished && (match r.r with | none => true | some ln => ln.finished)

/-- The response words of a finished run, planar (R160). -/
def ProcRun.outputs (r : ProcRun) : List F32 :=
  r.l.done ++ (match r.r with | none => [] | some ln => ln.done)

/-- One filter step of the PROC in flight (R75): the next sample of the channel; nothing when the
channel has none left. -/
def filterMicro (c : Chan) (s : State) : State :=
  match s.procRun with
  | none => s
  | some run =>
    match run.lane? c with
    | none => s
    | some ln =>
      match ln.todo with
      | [] => s
      | x :: xs =>
        let r := filterStep c x s
        { r.2 with
          procRun := some (run.setLane c { ln with todo := xs, pend := ln.pend ++ [r.1] }) }

/-- One push step of the PROC in flight (R75): the oldest output not yet pushed; nothing when there
is none. -/
def pushMicro (c : Chan) (s : State) : State :=
  match s.procRun with
  | none => s
  | some run =>
    match run.lane? c with
    | none => s
    | some ln =>
      match ln.pend with
      | [] => s
      | y :: ys =>
        { qPush c y s with
          procRun := some (run.setLane c { ln with pend := ys, done := ln.done ++ [y] }) }

/-- The response step of the PROC in flight (R75): possible once every sample is pushed. -/
def respondMicro (s : State) : State :=
  match s.procRun with
  | none => s
  | some run => if run.finished then respond .a run.outputs { s with procRun := none } else s

/-- The phase in which a channel with `left` pulls to make goes on (R240). -/
def TickPhase.next (left : Nat) : TickPhase := if left = 0 then .path else .pull

/-- A TICK at the beginning of a channel (R240). -/
def TickRun.start (b : Bounds) (c : Chan) (qcap : Nat) : TickRun := ⟨b, c, qcap, .next qcap⟩

/-- One micro-step of the TICK in flight (R240): a pull with its roll shift, an FFT, or the path of
a channel; channel 0 first. A pull that finds the queue empty ends the channel's pulls. -/
def tickMicro (s : State) : State :=
  match s.tickRun with
  | none => s
  | some t =>
    match t.phase with
    | .pull =>
      match pullStep t.ch s with
      | none => { s with tickRun := some { t with phase := .path } }
      | some s' => { s' with tickRun := some { t with left := t.left - 1, phase := .fft } }
    | .fft => { fftStep t.ch s with tickRun := some { t with phase := .next t.left } }
    | .path =>
      { pathStep t.ch t.bounds s with
        tickRun := match t.ch with
          | .l => some (.start t.bounds .r s.cfg.qcap)
          | .r => none }

/-- A decoded command started (R75): a PROC or TICK that passes its checks is then in flight; a
disabled TICK and every other command is one micro-step, its whole meaning. -/
def beginCommand (i : Instr) (s : State) : Out State :=
  match i with
  | .proc nch n payload =>
    if payload.length = n.toNat * nch.toNat ∧ procCheck n.toNat s = none then
      .next { s with procRun := some (.start nch n.toNat payload) }
    else exec (.proc nch n payload) s
  | .tick b =>
    if boundsCheck b s = none ∧ s.anen = true then
      .next { s with tickRun := some (.start b .l s.cfg.qcap) }
    else exec (.tick b) s
  | i => exec i s

end Sys2Proof.Machine
end

