-- ==== Sys2Proof/Machine/Events.lean ====
section
/-! DEFINITION. Taking a packet from a port's command stream, what each event of the agenda does,
and which event happens where the agenda names none. -/

namespace Sys2Proof.Machine

/-- The words up to and including the first with `last` = 1, and the stream after it; none when the
packet is not complete (R61, R103; 60_exceptions.md R273). -/
def takePacket : List CmdBeat → Option (List Word × List CmdBeat)
  | [] => none
  | b :: bs =>
    if b.last then some ([b.data], bs)
    else (takePacket bs).map fun r => (b.data :: r.1, r.2)

/-- A packet as it stands on a command stream (R61). -/
def packetBeats : List Word → List CmdBeat
  | [] => []
  | [w] => [⟨w, true⟩]
  | w :: ws => ⟨w, false⟩ :: packetBeats ws

/-- The next packet of a port, taken off it: the words already accepted and the rest up to `last`. -/
def fetch (p : PortId) (s : State) : Option (List Word × State) :=
  (takePacket (s.io.get p).cmd).map fun r =>
    ((s.io.get p).rx ++ r.1,
      { s with io := s.io.set p { s.io.get p with cmd := r.2, rx := [] } })

/-- Whether a command of a port is in flight: the next one waits for it (R73). -/
def busy (p : PortId) (s : State) : Bool :=
  match p with
  | .a => s.procRun.isSome
  | .v => s.tickRun.isSome

/-- The next packet of a port taken, decoded and run by `run`; a packet that does not decode takes
the fault (R100). Nothing happens while a command of the port is in flight or no packet is
complete. -/
def serve (run : Instr → State → Out State) (p : PortId) (s : State) : Out State :=
  if busy p s then .next s
  else
    match fetch p s with
    | none => .next s
    | some (packet, s') =>
      match decode p packet with
      | .ok i => run i s'
      | .bad k => .next (takeFault p k s')

/-- A port accepts one word that is not the last of its packet (R60); not while a command of the
port is in flight (10_state.md R28). -/
def acceptWord (p : PortId) (s : State) : State :=
  if busy p s then s
  else
    match (s.io.get p).cmd with
    | [] => s
    | b :: bs =>
      if b.last then s
      else { s with io := s.io.set p { s.io.get p with cmd := bs, rx := (s.io.get p).rx ++ [b.data] } }

/-- The issuing agent takes the oldest response word of a port (R60). -/
def takeWord (p : PortId) (s : State) : State :=
  { s with io := s.io.set p { s.io.get p with rsp := (s.io.get p).rsp.tail } }

/-- What reset leaves on a port: the words the agent has not handed over stay with it, accepted
words and response words not yet taken are gone (70_reset_and_hazards.md R300). -/
def PortIO.afterReset (x : PortIO) : PortIO := ⟨x.cmd, [], []⟩

/-- The reset event (R300): one micro-step that sets every element of state to its reset value,
whatever the block was doing. -/
def resetEvent (s : State) : State :=
  { State.resetWith s.cfg with
    io := ⟨s.io.a.afterReset, s.io.v.afterReset⟩
    sched := s.sched }

/-- What an event does. An event whose time has not come (a push with nothing to push, a command
while another of its port is in flight) changes nothing. -/
def runEvent (e : Event) (s : State) : Out State :=
  match e with
  | .command p => serve exec p s
  | .start p => serve beginCommand p s
  | .filter c => .next (filterMicro c s)
  | .push c => .next (pushMicro c s)
  | .respond => .next (respondMicro s)
  | .tick => .next (tickMicro s)
  | .accept p => .next (acceptWord p s)
  | .take p => .next (takeWord p s)
  | .paramChanged => .next (paramChanged s)
  | .reset => .next (resetEvent s)

/-- The next micro-step of a lane in the order R160 writes, none when it is finished. -/
def Lane.nextEvent (c : Chan) (ln : Lane) : Option Event :=
  if !ln.pend.isEmpty then some (.push c)
  else if !ln.todo.isEmpty then some (.filter c)
  else none

/-- The next micro-step of a PROC in flight in the order R160 writes: channel 0 whole, then
channel 1, each push right after its filter step, then the response. -/
def ProcRun.nextEvent (r : ProcRun) : Event :=
  ((r.l.nextEvent .l).or (r.r.bind (Lane.nextEvent .r))).getD .respond

/-- Whether a complete packet stands on a port. -/
def packetReady (p : PortId) (s : State) : Bool := (takePacket (s.io.get p).cmd).isSome

/-- What happens where the agenda names nothing: a command in flight goes on, then a complete packet
of port A, then one of port V; else the block waits (R303; log 8). -/
def defaultEvent (s : State) : Option Event :=
  match s.procRun with
  | some r => some r.nextEvent
  | none =>
    if s.tickRun.isSome then some .tick
    else if packetReady .a s then some (.command .a)
    else if packetReady .v s then some (.command .v)
    else none

/-- A port on which this packet is next, nothing of another packet accepted. -/
def PortIO.withPacket (x : PortIO) (packet : List Word) : PortIO :=
  ⟨packetBeats packet ++ x.cmd, [], x.rsp⟩

/-- The state in which this packet is the next command of a port and the very next event runs it:
nothing of the port is in flight (log 10). -/
def withPacket (p : PortId) (packet : List Word) (s : State) : State :=
  { s with
    io := s.io.set p ((s.io.get p).withPacket packet)
    procRun := if p = .a then none else s.procRun
    tickRun := if p = .v then none else s.tickRun
    sched := .command p :: s.sched }

end Sys2Proof.Machine
end

