-- ==== Sys2Proof/Machine/Step.lean ====
section
/-! DEFINITION. One step of the block: the next event of the agenda. -/

namespace Sys2Proof.Machine

/-- One step (20_memory.md R74): the event the agenda names, or where it names none the default one;
with nothing to do the block waits, its state unchanged (70_reset_and_hazards.md R303, R322). -/
def step (s : State) : Host.Outcome State Fault Refusal :=
  match s.sched with
  | e :: es => runEvent e { s with sched := es }
  | [] =>
    match defaultEvent s with
    | some e => runEvent e s
    | none => .next s

/-- s with the instruction of these bits placed where the next step takes its command from: first on
the command stream of the port its row belongs to, that port idle, the agenda naming it (log 10). -/
def State.withFetchWord (s : State) (nbits w : Nat) : State :=
  let packet := tablePacket nbits w
  withPacket (tablePort (packet.headD 0)) packet s

end Sys2Proof.Machine
end

