-- ==== Sys2Proof/Safety.lean ====
section
/-! DEFINITION. What counts as a safe run, in the terms claims use: legal parameters, the structural
invariant of the state (10_state.md R20, R32, R42, R44, R50 to R55), and runs over an agenda. -/

namespace Sys2Proof.Machine

/-- Legal parameters (00_scope.md R7, R221, 10_state.md R44): ORDER in 1..15, a window table of N
values, and a reset floor that is a legal FLOOR. -/
def legalConfig (c : Config) : Bool :=
  decide (1 ≤ c.order) && decide (c.order ≤ 15) && decide ((c.win.values c.n).length = c.n)
    && legalFloor c.floorReset

/-- The section flags follow the slope orders (R32). -/
def SlopesAgree (s : State) : Prop :=
  ∀ (c : Cut) (k : Sec), (s.sbyp.get c).get k = bypassedAt (s.slope.get c) k

/-- What a session is (R41, R42, R50, R255): while prepared, a legal rate and block size; else the
reset values, and nothing accumulated or in flight. -/
def SessionLegal (s : State) : Prop :=
  if s.prepared then legalSession s.cfg.n s.srate s.maxblk = true
  else s.srate = F32.zero ∧ s.maxblk = 0 ∧ s.acc = .all [] ∧ s.procRun = none ∧ s.tickRun = none

/-- The accumulators and sample queues (R50, R51): an accumulator is shorter than a block, a queue
holds at most QCAP blocks, each of exactly MAXBLK samples. -/
def QueuesBounded (s : State) : Prop :=
  ∀ c : Chan, (s.prepared = true → (s.acc.get c).length < s.maxblk)
    ∧ (s.queue.get c).length ≤ s.cfg.qcap
    ∧ ∀ blk ∈ s.queue.get c, blk.length = s.maxblk

/-- The analyzer's storage (R52 to R55): N samples in a rolling buffer, at most FCAP frames of N/2
values pending, a current frame of N/2 values, a path of at most N/2 points. -/
def AnalyzerBounded (s : State) : Prop :=
  ∀ c : Chan, (s.roll.get c).length = s.cfg.n
    ∧ (s.fq.get c).length ≤ s.cfg.fcap
    ∧ (∀ frame ∈ s.fq.get c, frame.length = s.cfg.n / 2)
    ∧ (∀ frame, s.curframe.get c = some frame → frame.length = s.cfg.n / 2)
    ∧ (s.curpath.get c).length ≤ s.cfg.n / 2

/-- The invariant of the block: it holds after reset and every step keeps it. -/
structure State.Inv (s : State) : Prop where
  config : legalConfig s.cfg = true
  slopes : SlopesAgree s
  session : SessionLegal s
  queues : QueuesBounded s
  analyzer : AnalyzerBounded s
  floor : legalFloor s.floor = true

/-- The events of a PROC in flight. -/
def Event.isProcStep : Event → Bool
  | .filter _ => true
  | .push _ => true
  | .respond => true
  | _ => false

/-- The events in which port A takes no new packet and loses no response, and no reset happens: the
micro-steps of a PROC in flight, everything port V does, and `param_changed`. -/
def Event.besidePortA : Event → Bool
  | .command p => p == .v
  | .start p => p == .v
  | .accept p => p == .v
  | .take p => p == .v
  | .reset => false
  | _ => true

/-- The header fields that fault a command with code 2 (60_exceptions.md R276), written from the
table of that rule over the numbers the header holds, not from the decoder. -/
def fieldFault (p : PortId) (op : Op) (h : Word) : Bool :=
  let pos := fieldOf h 23 20
  let sec := fieldOf h 19 16
  let ch := fieldOf h 8 8
  let flag := fieldOf h 0 0
  let addr := fieldOf h 15 0
  let zeroS := fieldOf h 15 9 != 0 || fieldOf h 7 1 != 0
  let notStage := decide (4 < pos) || (decide (1 ≤ pos ∧ pos ≤ 3) && sec != 0) || decide (3 < sec)
  match op with
  | .nop | .prepare | .magq | .tick | .tcdirty => fieldOf h 23 0 != 0
  | .setcoef | .rdcoef => zeroS || notStage || ch != 0 || flag != 0
  | .setbyp => zeroS || decide (4 < pos) || sec != 0 || ch != 0
  | .cutupd => zeroS || (pos != 0 && pos != 4) || decide (3 < sec) || ch != 0 || flag != 0
  | .rddly => zeroS || notStage || flag != 0
  | .pull | .fftrun | .pathgen | .rdframe | .rdpath => zeroS || pos != 0 || sec != 0 || flag != 0
  | .proc => fieldOf h 23 18 != 0 || fieldOf h 17 16 == 0 || fieldOf h 17 16 == 3
  | .rdcsr => fieldOf h 23 16 != 0 || decide (0x000B < addr)
  | .wrcsr =>
    fieldOf h 23 16 != 0 ||
      (match p with
        | .a => addr != 2
        | .v => addr != 2 && addr != 5 && addr != 6)

/-- The payload length a header requires (30_encoding.md R97), from the numbers the header holds. -/
def paylenOf (op : Op) (h : Word) : Nat :=
  match op with
  | .nop | .setbyp | .rdcsr | .rdcoef | .rddly | .pull | .fftrun | .rdframe | .rdpath
  | .tcdirty => 0
  | .magq | .wrcsr => 1
  | .prepare => 2
  | .pathgen | .tick => 4
  | .setcoef => 5
  | .cutupd => 5 * (fieldOf h 19 16 + 1)
  | .proc => fieldOf h 15 0 * fieldOf h 17 16

/-- The six commands that need a session (60_exceptions.md R278). -/
def needsSession : Instr → Bool
  | .proc _ _ _ | .magq _ | .pull _ | .fftrun _ | .pathgen _ _ | .tick _ => true
  | _ => false

/-- Whether one of the four bounds is not finite (60_exceptions.md R279). -/
def someBoundNotFinite (b : Bounds) : Bool :=
  !b.left.isFinite || !b.top.isFinite || !b.width.isFinite || !b.height.isFinite

/-- The conditions that fault with code 5 (60_exceptions.md R279), for a command that passes the
checks before that one. "f > SRATE / 2" is said as not f ≤ SRATE / 2 (42_mono_chain.md R170), the
same unless a numeric record other than binary32 makes SRATE / 2 a NaN. -/
def rangeFault (i : Instr) (s : State) : Bool :=
  match i with
  | .prepare sr mb =>
    !sr.isFinite || !flt F32.zero sr || mb.toNat == 0 || decide (2 ^ s.cfg.order < mb.toNat)
  | .proc _ n _ => s.prepared && decide (s.maxblk < n.toNat)
  | .magq f =>
    s.prepared && (!f.isFinite || flt f F32.zero || !fle f (s.num.fdiv s.srate F32.two))
  | .pathgen _ b | .tick b => s.prepared && someBoundNotFinite b
  | .wrcsr .v .floor w => !F32.isFinite w || !flt w F32.zero
  | _ => false

/-- Samples run one after another through a chain; answers the outputs and the delay records. -/
def chainRun (nm : NumRecord) (g : Settings) : Bank Delay → List F32 → List F32 × Bank Delay
  | d, [] => ([], d)
  | d, x :: xs =>
    let r := chainStep nm g d x
    let rest := chainRun nm g r.2 xs
    (r.1 :: rest.1, rest.2)

/-- The outputs of one stage for samples run one after another, each with the coefficients in force
at its time. -/
def stageOutputs (nm : NumRecord) : Delay → List (Coef × F32) → List F32
  | _, [] => []
  | d, kx :: rest =>
    let r := biquadStep nm kx.1 d kx.2
    r.1 :: stageOutputs nm r.2 rest

/-- One link of a cascade: where bypassed the sample and the records pass as they are, else `f` runs
on them. -/
def unlessBypassed (bypassed : Bool) (f : Bank Delay → F32 → F32 × Bank Delay) (r : F32 × Bank Delay) :
    F32 × Bank Delay :=
  if bypassed then r else f r.2 r.1

/-- Samples pushed one after another onto an accumulator and a queue (44_sample_queue.md R193). -/
def pushRun (maxblk qcap : Nat) :
    List F32 × List (List F32) → List F32 → List F32 × List (List F32)
  | q, [] => q
  | (acc, queue), v :: vs =>
    pushRun maxblk qcap
      (if acc.length + 1 = maxblk then
        ([], if queue.length < qcap then queue ++ [acc ++ [v]] else queue)
       else (acc ++ [v], queue)) vs

/-- The rolling buffer after each of a list of blocks (45_analyzer.md R214). -/
def rollsAfter : List F32 → List (List F32) → List (List F32)
  | _, [] => []
  | roll, blk :: blks =>
    (roll.drop blk.length ++ blk) :: rollsAfter (roll.drop blk.length ++ blk) blks

/-- The magnitude from which on a result rounds to an infinity, in units of 2^-149: halfway between
the largest finite value and 2^128 (00_scope.md R12). -/
def overflowAt : Nat := (2 ^ 25 - 1) * 2 ^ 252

/-- r is the exact value num / den units of 2^-149 rounded to binary32, to nearest with ties to
even, with this sign: finite below the overflow bound and then no finite value is nearer, an infinity
from the bound on (00_scope.md R12). -/
def RoundsTo (num : Int) (den : Nat) (neg : Bool) (r : F32) : Prop :=
  r.neg? = neg ∧
  (num.natAbs < overflowAt * den → r.isFinite = true ∧ ∀ c : F32, c.isFinite = true →
    |r.exact * den - num| ≤ |c.exact * den - num| ∧
    (|r.exact * den - num| = |c.exact * den - num| → c.exact = r.exact ∨ r.toNat % 2 = 0)) ∧
  (overflowAt * den ≤ num.natAbs → r = withSign neg F32.inf.toNat)

/-- The event the next step runs and the agenda it leaves: the first of the agenda, or where the
agenda is empty the default event (20_memory.md R74; which event is the default is the model's
choice, log 8); none when the block waits. -/
def nextEvent (s : State) : Option (Event × List Event) :=
  match s.sched with
  | e :: es => some (e, es)
  | [] => (defaultEvent s).map fun e => (e, [])

/-- The stage addresses of a position, in section order (42_mono_chain.md R170). -/
def stagesOf : Pos → List Stage
  | .cut c => [.cut c .s0, .cut c .s1, .cut c .s2, .cut c .s3]
  | .peak k => [.peak k]

/-- The response words of port A or V with one packet more. -/
def State.withResponse (s : State) (p : PortId) (beats : List RspBeat) : State :=
  { s with io := s.io.set p { s.io.get p with rsp := (s.io.get p).rsp ++ beats } }

/-- `k` steps from s end in t, none of them a stop. -/
def Runs (k : Nat) (s t : State) : Prop := Host.Core.run core k s = .next t

/-- The agenda es, whole, from s ends in t. -/
def RunsAgenda (es : List Event) (s t : State) : Prop := Runs es.length { s with sched := es } t

end Sys2Proof.Machine
end

