-- ==== Sys2Proof/Certificates/Slice0/Obligations.lean ====
section
/-! DEFINITION. What is stated of the model for the provers. Each docstring names the rules of
spec/ the statement formalises; OBLIGATIONS.json lists them with their basis. -/

open Sys2Proof Sys2Proof.Machine

/-! ### Encoding and decoding -/

/-- Decoding the packet of any well-formed command on its port gives the command back
(30_encoding.md R91 to R100): no operand bit is dropped. -/
def Obligations.DecodeInvertsEncode : Prop :=
  ∀ i : Instr, i.wellFormed = true → decode i.port (encode i) = .ok i

/-- A packet that decodes is exactly the packet of the command it decodes to, and that command is
well formed and belongs to the port: no header bit and no payload word is ignored (R100 to R102). -/
def Obligations.DecodeAcceptsOnlyEncodings : Prop :=
  ∀ (p : PortId) (packet : List Word) (i : Instr), decode p packet = .ok i →
    i.wellFormed = true ∧ i.port = p ∧ packet = encode i

/-- Packets written out from the table of 30_encoding.md R106 decode to what they are written for. -/
def Obligations.AssemblyExamplesDecode : Prop :=
  decode .v [0x00000000#32] = .ok (.nop .v) ∧
  decode .a [0x01000000#32, 0x473B8000#32, 0x00000004#32] = .ok (.prepare 0x473B8000#32 4#32) ∧
  decode .a [0x03200001#32] = .ok (.setbyp (.peak .pk2) true) ∧
  decode .a [0x05010004#32, 0x3F800000#32, 0x3F800000#32, 0x3F800000#32, 0x3F800000#32]
    = .ok (.proc .mono 4#16 [0x3F800000#32, 0x3F800000#32, 0x3F800000#32, 0x3F800000#32]) ∧
  decode .v [0x08000005#32, 0x00000000#32] = .ok (.wrcsr .v .ctrl 0#32) ∧
  decode .a [0x0A100100#32] = .ok (.rddly (.peak .pk1) .r) ∧
  decode .v [0x12000000#32, 0#32, 0#32, 0x40400000#32, 0x42400000#32]
    = .ok (.pathgen .l ⟨0#32, 0#32, 0x40400000#32, 0x42400000#32⟩)

/-- R272: the defined opcodes are 0x00 to 0x0A on port A, 0x00, 0x07, 0x08 and 0x10 to 0x16 on
port V; every other value of bits 31:24 is code 1, whatever the other bits and the length are, and
the packet is consumed whole, by a step that serves or starts it as an event of the agenda or as the
default one. -/
def Obligations.UndefinedOpcodeFaults : Prop :=
  (∀ (p : PortId) (h : Word) (ws : List Word),
    decode p (h :: ws) = .bad .illop ↔
      match p with
      | .a => 0x0A < fieldOf h 31 24
      | .v => ¬(fieldOf h 31 24 = 0x00 ∨ fieldOf h 31 24 = 0x07 ∨ fieldOf h 31 24 = 0x08
          ∨ (0x10 ≤ fieldOf h 31 24 ∧ fieldOf h 31 24 ≤ 0x16))) ∧
  (∀ (s : State) (p : PortId) (ws : List Word) (rest : List CmdBeat) (es : List Event),
    nextEvent s = some (.command p, es) ∨ nextEvent s = some (.start p, es) →
    busy p s = false → ws ≠ [] →
    (s.io.get p).cmd = packetBeats ws ++ rest → decode p ((s.io.get p).rx ++ ws) = .bad .illop →
    step s = .next (takeFault p .illop
      { s with sched := es, io := s.io.set p ⟨rest, [], (s.io.get p).rsp⟩ }))

/-- R276: a command whose opcode is defined on the port faults with code 2 exactly on the header
fields of the rule's table. -/
def Obligations.FieldFaultTable : Prop :=
  ∀ (p : PortId) (op : Op) (h : Word) (ws : List Word),
    fieldOf h 31 24 = op.code → op.onPort p = true →
    (decode p (h :: ws) = .bad .field ↔ fieldFault p op h = true)

/-- R97: the payload length is the one of the opcode map, a function of the header alone and at most
131070; a packet of any other length faults with code 3 and one of that length is a command. -/
def Obligations.PayloadLengthFromHeader : Prop :=
  ∀ (p : PortId) (op : Op) (h : Word) (ws : List Word),
    fieldOf h 31 24 = op.code → op.onPort p = true → fieldFault p op h = false →
    paylenOf op h ≤ 131070 ∧
    (decode p (h :: ws) = .bad .len ↔ ws.length ≠ paylenOf op h) ∧
    ((∃ i, decode p (h :: ws) = .ok i) ↔ ws.length = paylenOf op h)

/-! ### The step -/

/-- What a step does at the events of a port. At `command`, with a complete packet that decodes (the
words accepted before stand first): the meaning of the decoded command, at the state with the packet
and the agenda's entry taken off. At `start`: the beginning of that command, which is its whole
meaning unless it is a PROC or TICK that passes its checks. With no complete packet, or a command of
the port in flight: nothing. At `accept`: one word that is not the last of its packet is accepted, if
it is there and no command of the port is in flight. At `take`: the oldest response word is gone.
With an empty agenda and nothing in flight a complete packet of port A runs, and one of port V when
port A has none: that order is the model's (log 8). -/
def Obligations.StepRunsDecodedCommand : Prop :=
  (∀ (s : State) (p : PortId) (ws : List Word) (rest : List CmdBeat) (i : Instr),
    ws ≠ [] → (s.io.get p).cmd = packetBeats ws ++ rest →
    decode p ((s.io.get p).rx ++ ws) = .ok i →
    (∀ es : List Event, s.sched = .command p :: es → busy p s = false →
      step s = exec i { s with sched := es, io := s.io.set p ⟨rest, [], (s.io.get p).rsp⟩ }) ∧
    (∀ es : List Event, s.sched = .start p :: es → busy p s = false →
      step s = beginCommand i { s with sched := es, io := s.io.set p ⟨rest, [], (s.io.get p).rsp⟩ }) ∧
    (s.sched = [] → s.procRun = none → s.tickRun = none →
      p = .a ∨ takePacket (s.io.get .a).cmd = none →
      step s = exec i { s with io := s.io.set p ⟨rest, [], (s.io.get p).rsp⟩ })) ∧
  (∀ (i : Instr) (s : State), (∀ nch n payload, i = .proc nch n payload →
      s.prepared = false ∨ s.maxblk < n.toNat ∨ payload.length ≠ n.toNat * nch.toNat) →
    (∀ b, i = .tick b → s.prepared = false ∨ someBoundNotFinite b = true ∨ s.anen = false) →
    beginCommand i s = exec i s) ∧
  (∀ (s : State) (p : PortId) (es : List Event),
    s.sched = .command p :: es ∨ s.sched = .start p :: es →
    busy p s = true ∨ (∀ b ∈ (s.io.get p).cmd, b.last = false) →
    step s = .next { s with sched := es }) ∧
  (∀ (s : State) (p : PortId) (es : List Event), s.sched = .accept p :: es →
    (∀ w rest, busy p s = false → (s.io.get p).cmd = ⟨w, false⟩ :: rest →
      step s = .next { s with
        sched := es, io := s.io.set p ⟨rest, (s.io.get p).rx ++ [w], (s.io.get p).rsp⟩ }) ∧
    (busy p s = true ∨ (s.io.get p).cmd = [] ∨ (∃ w rest, (s.io.get p).cmd = ⟨w, true⟩ :: rest) →
      step s = .next { s with sched := es })) ∧
  (∀ (s : State) (p : PortId) (es : List Event), s.sched = .take p :: es →
    step s = .next { s with
      sched := es, io := s.io.set p ⟨(s.io.get p).cmd, (s.io.get p).rx, (s.io.get p).rsp.drop 1⟩ })

/-- A step in which a port serves or starts a complete packet that does not decode, as an event of
the agenda or, where that is empty, as the default one (log 8), takes the fault, with the packet
consumed whole and no other effect (60_exceptions.md, section 1). -/
def Obligations.StepTakesDecodeFault : Prop :=
  ∀ (s : State) (p : PortId) (ws : List Word) (rest : List CmdBeat) (es : List Event)
    (k : FaultCode),
    nextEvent s = some (.command p, es) ∨ nextEvent s = some (.start p, es) → busy p s = false →
    ws ≠ [] → (s.io.get p).cmd = packetBeats ws ++ rest →
    decode p ((s.io.get p).rx ++ ws) = .bad k →
    step s = .next (takeFault p k
      { s with sched := es, io := s.io.set p ⟨rest, [], (s.io.get p).rsp⟩ })

/-- The step after `withFetchWord` runs exactly the instruction the decoder reads from the same
bits, at a state that differs from s only in that nothing of its port is in flight or half
received. How a packet comes to stand there is the model's choice (log 10). -/
def Obligations.FetchWordRunsDecodedInstruction : Prop :=
  ∀ (s : State) (nbits w : Nat) (i : Instr), decodeTableWord nbits w = some i →
    step (s.withFetchWord nbits w) =
      exec i { s with
        io := s.io.set i.port { s.io.get i.port with rx := [] }
        procRun := if i.port = .a then none else s.procRun
        tickRun := if i.port = .v then none else s.tickRun }

/-- "The block never halts" (70_reset_and_hazards.md, section 4): every step of every state, fault
conditions included, has a next state. -/
def Obligations.StepNeverStops : Prop :=
  ∀ s : State, ∃ t, step s = .next t

/-! ### The invariant and reset -/

/-- Every step keeps the structural invariant of the state (10_state.md, sections 1 to 6). -/
def Obligations.StepKeepsInvariant : Prop :=
  ∀ s t : State, s.Inv → step s = .next t → t.Inv

/-- The state after reset has the invariant, for the default parameters and for all legal ones. -/
def Obligations.ResetHasInvariant : Prop :=
  State.reset.Inv ∧ ∀ c : Config, legalConfig c = true → (State.resetWith c).Inv

/-- R32: SLOPE is 0 after reset and what CUTUPD last loaded for that chain, the other chain's kept and
no other command writing it; SBYP[p][s] = 1 exactly when
s > SLOPE[p], after reset and preserved by every step. -/
def Obligations.SectionFlagsFollowSlope : Prop :=
  (∀ (c : Config) (k : Cut), SlopesAgree (State.resetWith c) ∧ (State.resetWith c).slope.get k = .s0) ∧
  (∀ (s t : State) (k : Cut) (o : Sec) (sets : List Coef), sets.length = o.toNat + 1 →
    exec (.cutupd k o sets) s = .next t →
    t.slope.get k = o ∧ ∀ d, d ≠ k → t.slope.get d = s.slope.get d) ∧
  (∀ (i : Instr) (s t : State), (∀ c o sets, i ≠ .cutupd c o sets) →
    exec i s = .next t → t.slope = s.slope) ∧
  (∀ s t : State, SlopesAgree s → step s = .next t → SlopesAgree t)

/-- R301: the reset value of every element of state, and the CSR words after reset. -/
def Obligations.ResetValues : Prop :=
  (∀ (c : Config) (s : State), s = State.resetWith c →
    (∀ st, s.coef.get st = ⟨0x3F800000#32, 0#32, 0#32, 0#32, 0#32⟩) ∧
    (∀ ch st, (s.dly.get ch).get st = ⟨0#32, 0#32, 0#32, 0#32⟩) ∧
    (∀ p, s.pbyp.get p = false) ∧
    (∀ k, (s.sbyp.get k).get .s0 = false ∧ (s.sbyp.get k).get .s1 = true
      ∧ (s.sbyp.get k).get .s2 = true ∧ (s.sbyp.get k).get .s3 = true) ∧
    (∀ k, (s.slope.get k).toNat = 0) ∧
    s.prepared = false ∧ s.srate = 0#32 ∧ s.maxblk = 0 ∧
    (∀ ch, s.acc.get ch = [] ∧ s.queue.get ch = []
      ∧ s.roll.get ch = List.replicate (2 ^ c.order) 0#32
      ∧ s.fq.get ch = [] ∧ s.curframe.get ch = none ∧ s.curpath.get ch = []) ∧
    s.anen = true ∧ s.floor = c.floorReset ∧ s.dirty = false ∧ (∀ p, s.fstat.get p = 0#5)) ∧
  (∀ p : PortId,
    csrRead p .id State.reset = 0x53455131#32 ∧ csrRead p .fstat State.reset = 0#32 ∧
    csrRead p .fclr State.reset = 0#32 ∧ csrRead p .srate State.reset = 0#32 ∧
    csrRead p .maxblk State.reset = 0#32 ∧ csrRead p .ctrl State.reset = 1#32 ∧
    csrRead p .floor State.reset = 0xC2400000#32 ∧ csrRead p .slope State.reset = 0#32 ∧
    csrRead p .bypass State.reset = 0xEE00#32 ∧ csrRead p .fftord State.reset = 0x0B#32 ∧
    csrRead p .qcap State.reset = 0x1E#32 ∧ csrRead p .fcap State.reset = 0x1E#32) ∧
  (∀ (c : Config) (ch : Chan),
    exec (.rdframe ch) (State.resetWith c)
      = .next ((State.resetWith c).withResponse .v [⟨0#32, true, false⟩]) ∧
    exec (.rdpath ch) (State.resetWith c)
      = .next ((State.resetWith c).withResponse .v [⟨0#32, true, false⟩]))

/-- The reset event sets every element of state to its reset value whatever the block was doing:
words of a partly received packet, response words not yet sent and commands in flight are gone
(70_reset_and_hazards.md, section 1). That the words the agent still holds stay with it is the
model's reading (log 12). -/
def Obligations.ResetEventAbandonsAll : Prop :=
  ∀ (s : State) (es : List Event), s.sched = .reset :: es →
    step s = .next { State.resetWith s.cfg with
      io := ⟨⟨s.io.a.cmd, [], []⟩, ⟨s.io.v.cmd, [], []⟩⟩
      sched := es }

/-! ### Faults -/

/-- Fault entry: bit k - 1 of the port's FSTAT is set and its other bits stay, one packet of one word
with `err` and `last` holding the code goes out on that port, and nothing else changes
(60_exceptions.md, section 1). -/
def Obligations.FaultEntryEffect : Prop :=
  ∀ (p : PortId) (k : FaultCode) (s : State),
    (∀ j : Nat, j < 5 → ((takeFault p k s).fstat.get p).getLsbD j
      = (decide (j + 1 = k.toNat) || (s.fstat.get p).getLsbD j)) ∧
    takeFault p k s =
      { s.withResponse p [⟨BitVec.ofNat 32 k.toNat, true, true⟩] with
        fstat := s.fstat.set p ((takeFault p k s).fstat.get p) }

/-- R278: the six commands that need a session fault with code 4 while PREPARED = 0; no other
command, and none of them once prepared, raises it; PREPARED is cleared only by reset. -/
def Obligations.NotPreparedFaults : Prop :=
  (∀ (i : Instr) (s : State), needsSession i = true → i.wellFormed = true → s.prepared = false →
    exec i s = .next (takeFault i.port .notprep s)) ∧
  (∀ (i : Instr) (s t : State) (p : PortId), needsSession i = false ∨ s.prepared = true →
    exec i s = .next t → (t.fstat.get p).getLsbD 3 = true → (s.fstat.get p).getLsbD 3 = true) ∧
  (∀ s t : State, s.prepared = true → step s = .next t → t.prepared = false →
    s.sched.head? = some .reset)

/-- R279: a command faults with code 5 on the conditions of the rule's table and on no other. -/
def Obligations.RangeFaultTable : Prop :=
  ∀ (i : Instr) (s : State), s.Inv → i.wellFormed = true →
    (rangeFault i s = true → exec i s = .next (takeFault i.port .range s)) ∧
    (rangeFault i s = false → ∀ (t : State) (p : PortId), exec i s = .next t →
      (t.fstat.get p).getLsbD 4 = true → (s.fstat.get p).getLsbD 4 = true)

/-- R40: a write of FCLR clears bit k of that port's FSTAT where w[k] = 1, k in 0..4, ignores bits
31:5 and changes nothing else, the other port's bits, PREPARED and DIRTY included; it reads 0. -/
def Obligations.FclrWritesOneToClear : Prop :=
  ∀ (p : PortId) (w : Word) (s : State), ∃ t,
    exec (.wrcsr p .fclr w) s = .next t ∧
    (∀ k : Nat, k < 5 → (t.fstat.get p).getLsbD k = ((s.fstat.get p).getLsbD k && !w.getLsbD k)) ∧
    t = { s with fstat := s.fstat.set p (t.fstat.get p) } ∧
    csrRead p .fclr s = 0#32

/-! ### System commands and CSRs -/

/-- NOP answers the state it was given, on either port (46_system.md, NOP). -/
def Obligations.NopChangesNothing : Prop :=
  ∀ (p : PortId) (s : State), exec (.nop p) s = .next s

/-- R253: a PREPARE with a finite rate above zero and a block size of 1..N keeps COEF, PBYP, SBYP,
SLOPE, ANEN, FLOOR, DIRTY and both FSTATs and everything on the ports; it clears the delay lines,
loads the session and empties the queues and the analyzer's storage. -/
def Obligations.PrepareStartsSession : Prop :=
  ∀ (s : State) (sr : F32) (mb : Word), sr.isFinite = true → flt F32.zero sr = true →
    1 ≤ mb.toNat → mb.toNat ≤ 2 ^ s.cfg.order →
    exec (.prepare sr mb) s = .next { s with
      srate := sr
      maxblk := mb.toNat
      prepared := true
      dly := .all (.all ⟨0#32, 0#32, 0#32, 0#32⟩)
      acc := .all []
      queue := .all []
      roll := .all (List.replicate (2 ^ s.cfg.order) 0#32)
      fq := .all []
      curframe := .all none
      curpath := .all [] }

/-- R254: a second PREPARE with the same operands and nothing between changes nothing. -/
def Obligations.PrepareTwiceSameAsOnce : Prop :=
  ∀ (s t : State) (sr : F32) (mb : Word), legalSession s.cfg.n sr mb.toNat = true →
    exec (.prepare sr mb) s = .next t → exec (.prepare sr mb) t = .next t

/-- R38, R47: RDCSR responds the word of the register, one word, and changes nothing else; ID,
FFTORD, QCAP and FCAP are hardwired to the identity word and the parameters and refuse a write. -/
def Obligations.RdcsrRespondsRegister : Prop :=
  ∀ (p : PortId) (s : State),
    (∀ r : Csr, exec (.rdcsr p r) s
      = .next (s.withResponse p [⟨csrRead p r s, true, false⟩])) ∧
    csrRead p .id s = 0x53455131#32 ∧
    csrRead p .fftord s = BitVec.ofNat 32 s.cfg.order ∧
    csrRead p .qcap s = BitVec.ofNat 32 s.cfg.qcap ∧
    csrRead p .fcap s = BitVec.ofNat 32 s.cfg.fcap ∧
    csrRead p .srate s = s.srate ∧
    csrRead p .maxblk s = BitVec.ofNat 32 s.maxblk ∧
    csrRead p .floor s = s.floor ∧
    (∀ (r : Csr) (w : Word), r = .id ∨ r = .fftord ∨ r = .qcap ∨ r = .fcap →
      exec (.wrcsr p r w) s = .next (takeFault p .field s))

/-- R39: the bits of FSTAT as either port reads it, the bit a fault of the port sets, the refusal of
a write and the reset value. -/
def Obligations.FstatBits : Prop :=
  (∀ (p : PortId) (s : State) (j : Nat),
    (csrRead p .fstat s).getLsbD j =
      if j < 5 then (s.fstat.get p).getLsbD j
      else if j = 8 then s.prepared
      else if j = 9 then s.dirty
      else false) ∧
  (∀ (p : PortId) (k : FaultCode) (s : State),
    (csrRead p .fstat (takeFault p k s)).getLsbD (k.toNat - 1) = true) ∧
  (∀ (p : PortId) (w : Word) (s t : State),
    (exec (.rdcsr p .fstat) s = .next t → t.dirty = s.dirty) ∧
    exec (.wrcsr p .fstat w) s = .next (takeFault p .field s)) ∧
  (∀ p : PortId, csrRead p .fstat State.reset = 0#32)

/-- R43: CTRL bit 0 is ANEN, bits 31:1 read 0 and are ignored by a write; port V may write it and
port A may not; it is 1 after reset. -/
def Obligations.CtrlHoldsAnen : Prop :=
  (∀ (w : Word) (s : State),
    exec (.wrcsr .v .ctrl w) s = .next { s with anen := w.getLsbD 0 } ∧
    exec (.wrcsr .a .ctrl w) s = .next (takeFault .a .field s)) ∧
  (∀ (p : PortId) (s : State), csrRead p .ctrl s = if s.anen then 1#32 else 0#32) ∧
  (∀ p : PortId, csrRead p .ctrl State.reset = 0x00000001#32)

/-- R45, R46: the bits of SLOPE and BYPASS, their refusal of a write and their reset values. -/
def Obligations.SlopeAndBypassBits : Prop :=
  (∀ (p : PortId) (s : State),
    fieldOf (csrRead p .slope s) 1 0 = (s.slope.get .lc).toNat ∧
    fieldOf (csrRead p .slope s) 5 4 = (s.slope.get .hc).toNat ∧
    fieldOf (csrRead p .slope s) 3 2 = 0 ∧ fieldOf (csrRead p .slope s) 31 6 = 0 ∧
    (∀ pos : Pos, (csrRead p .bypass s).getLsbD pos.toNat = s.pbyp.get pos) ∧
    (∀ k : Sec, (csrRead p .bypass s).getLsbD (8 + k.toNat) = (s.sbyp.get .lc).get k) ∧
    (∀ k : Sec, (csrRead p .bypass s).getLsbD (12 + k.toNat) = (s.sbyp.get .hc).get k) ∧
    fieldOf (csrRead p .bypass s) 7 5 = 0 ∧ fieldOf (csrRead p .bypass s) 31 16 = 0) ∧
  (∀ (p : PortId) (w : Word) (s : State),
    exec (.wrcsr p .slope w) s = .next (takeFault p .field s) ∧
    exec (.wrcsr p .bypass w) s = .next (takeFault p .field s)) ∧
  (∀ p : PortId, csrRead p .slope State.reset = 0#32 ∧ csrRead p .bypass State.reset = 0x0000EE00#32)

/-- A legal FLOOR written on port V is loaded and nothing else changes; every register a port may
only read refuses a write with code 2 (10_state.md, section 5). -/
def Obligations.WrcsrRights : Prop :=
  (∀ (w : F32) (s : State), w.isFinite = true → flt w F32.zero = true →
    exec (.wrcsr .v .floor w) s = .next { s with floor := w }) ∧
  (∀ (p : PortId) (r : Csr) (w : Word) (s : State),
    r ≠ .fclr → ¬(p = .v ∧ (r = .ctrl ∨ r = .floor)) →
    exec (.wrcsr p r w) s = .next (takeFault p .field s))

/-- R81: a `param_changed` event is DIRTY <- 1; TCDIRTY answers the old value and clears it; a step
that clears a set DIRTY is reset or answers 1, so no event is lost. -/
def Obligations.DirtyIsNeverLost : Prop :=
  (∀ (s : State) (es : List Event), s.sched = .paramChanged :: es →
    step s = .next { s with dirty := true, sched := es }) ∧
  (∀ s : State, exec .tcdirty s
    = .next { s.withResponse .v [⟨if s.dirty then 1#32 else 0#32, true, false⟩] with dirty := false }) ∧
  (∀ s t : State, s.dirty = true → step s = .next t →
    t.dirty = true ∨ s.sched.head? = some .reset ∨
      (t.dirty = false ∧ t.io.v.rsp = s.io.v.rsp ++ [⟨1#32, true, false⟩]))

/-! ### The filters -/

/-- SETCOEF loads the five words of one stage as given; every other stage and everything else, the
delay records and bypass flags included, is unchanged (40_filter_stage.md, SETCOEF). -/
def Obligations.SetcoefLoadsOneStage : Prop :=
  ∀ (st : Stage) (k : Coef) (s : State), ∃ t,
    exec (.setcoef st k) s = .next t ∧ t = { s with coef := t.coef } ∧
    t.coef.get st = k ∧ ∀ st', st' ≠ st → t.coef.get st' = s.coef.get st'

/-- SETBYP sets one position flag; the other four and everything else are unchanged
(40_filter_stage.md, SETBYP). -/
def Obligations.SetbypSetsOneFlag : Prop :=
  ∀ (p : Pos) (flag : Bool) (s : State), ∃ t,
    exec (.setbyp p flag) s = .next t ∧ t = { s with pbyp := t.pbyp } ∧
    t.pbyp.get p = flag ∧ ∀ q, q ≠ p → t.pbyp.get q = s.pbyp.get q

/-- RDCOEF responds the five words of a stage and RDDLY the four of a delay record, and neither
changes anything else (40_filter_stage.md, RDCOEF and RDDLY). -/
def Obligations.FilterReadback : Prop :=
  ∀ (st : Stage) (ch : Chan) (s : State),
    exec (.rdcoef st) s = .next (s.withResponse .a (rspPacket false
      [(s.coef.get st).b0, (s.coef.get st).b1, (s.coef.get st).b2,
        (s.coef.get st).a1, (s.coef.get st).a2])) ∧
    exec (.rddly st ch) s = .next (s.withResponse .a (rspPacket false
      [((s.dly.get ch).get st).x1, ((s.dly.get ch).get st).x2,
        ((s.dly.get ch).get st).y1, ((s.dly.get ch).get st).y2]))

/-- CUTUPD loads sections 0..s with the sets in order and makes them active, bypasses the others and
keeps their coefficients; the other chain, the peaks, every delay record and everything else are
unchanged (41_cut_chain.md, section 2). -/
def Obligations.CutupdLoadsChain : Prop :=
  ∀ (c : Cut) (o : Sec) (sets : List Coef) (s : State), sets.length = o.toNat + 1 → ∃ t,
    exec (.cutupd c o sets) s = .next t ∧
    t = { s with coef := t.coef, sbyp := t.sbyp, slope := t.slope } ∧
    (∀ k : Sec, k.toNat ≤ o.toNat →
      sets[k.toNat]? = some (t.coef.get (.cut c k)) ∧ (t.sbyp.get c).get k = false) ∧
    (∀ k : Sec, o.toNat < k.toNat →
      t.coef.get (.cut c k) = s.coef.get (.cut c k) ∧ (t.sbyp.get c).get k = true) ∧
    t.slope.get c = o ∧
    (∀ st : Stage, st.pos ≠ .cut c → t.coef.get st = s.coef.get st) ∧
    (∀ d : Cut, d ≠ c → t.sbyp.get d = s.sbyp.get d ∧ t.slope.get d = s.slope.get d)

/-- R148: after any CUTUPD with slope order s exactly s + 1 sections of the chain are not bypassed,
they are the first s + 1, and no other command changes a section flag. -/
def Obligations.ActiveSectionCount : Prop :=
  (∀ (c : Cut) (o : Sec) (sets : List Coef) (s t : State), sets.length = o.toNat + 1 →
    exec (.cutupd c o sets) s = .next t →
    (Sec.order.filter fun k => !(t.sbyp.get c).get k).length = o.toNat + 1 ∧
    (Sec.order.filter fun k => (t.sbyp.get c).get k).length = 3 - o.toNat ∧
    Sec.order.take (o.toNat + 1) = Sec.order.filter fun k => !(t.sbyp.get c).get k) ∧
  (∀ (i : Instr) (s t : State), (∀ c o sets, i ≠ .cutupd c o sets) →
    exec i s = .next t → t.sbyp = s.sbyp)

/-- R122: one sample through a biquad, Direct Form I, the operations of the numeric record in the order
of the rule; the new delay record is (x, old x1, t, old y1) and no other record changes. -/
def Obligations.BiquadDirectFormOne : Prop :=
  ∀ (nm : NumRecord) (g : Settings) (st : Stage) (d : Bank Delay) (x : F32),
    let k := g.coef.get st
    let o := d.get st
    let t := nm.fsub (nm.fsub (nm.fadd (nm.fadd (nm.fmul k.b0 x) (nm.fmul k.b1 o.x1))
      (nm.fmul k.b2 o.x2)) (nm.fmul k.a1 o.y1)) (nm.fmul k.a2 o.y2)
    (biquadAt nm g st d x).1 = t ∧
    (biquadAt nm g st d x).2.get st = ⟨x, o.x1, t, o.y1⟩ ∧
    ∀ st', st' ≠ st → (biquadAt nm g st d x).2.get st' = d.get st'

/-- A NaN anywhere in the delay record of a stage makes every output of the stage a NaN from then on,
for any samples and whatever the coefficients are or become, in binary32 (40_filter_stage.md,
section 2). -/
def Obligations.NaNSticksInStage : Prop :=
  ∀ (j : Nat) (d : Delay) (samples : List (Coef × F32)),
    d.x1.isNaN = true ∨ d.x2.isNaN = true ∨ d.y1.isNaN = true ∨ d.y2.isNaN = true →
    (stageOutputs (NumChoice.binary32 j).record d samples).length = samples.length ∧
    ∀ y ∈ stageOutputs (NumChoice.binary32 j).record d samples, y.isNaN = true

/-- R124, R125, R141, R156, R158: a bypassed stage returns its input and writes nothing, another runs
its biquad; a cut chain runs its sections 0 to 3 in order and the chain its positions LowCut, Peak1,
Peak2, Peak3, HighCut in order, each passing the word on where it is bypassed; no record of a bypassed
position or section changes; with all five positions bypassed every word comes back bit for bit and no
state changes. For any numeric record. -/
def Obligations.BypassedChainIsTransparent : Prop :=
  ∀ (nm : NumRecord) (g : Settings) (d : Bank Delay) (x : F32),
    (∀ (c : Cut) (k : Sec),
      ((g.sbyp.get c).get k = true → stageStep nm g (.cut c k) d x = (x, d)) ∧
      ((g.sbyp.get c).get k = false →
        stageStep nm g (.cut c k) d x = biquadAt nm g (.cut c k) d x)) ∧
    (∀ k : Peak, stageStep nm g (.peak k) d x = biquadAt nm g (.peak k) d x) ∧
    (∀ c : Cut, cutStep nm g c d x =
      unlessBypassed (g.sbyp.get c).s3 (biquadAt nm g (.cut c .s3))
        (unlessBypassed (g.sbyp.get c).s2 (biquadAt nm g (.cut c .s2))
          (unlessBypassed (g.sbyp.get c).s1 (biquadAt nm g (.cut c .s1))
            (unlessBypassed (g.sbyp.get c).s0 (biquadAt nm g (.cut c .s0)) (x, d))))) ∧
    chainStep nm g d x =
      unlessBypassed g.pbyp.hc (cutStep nm g .hc)
        (unlessBypassed g.pbyp.pk3 (biquadAt nm g (.peak .pk3))
          (unlessBypassed g.pbyp.pk2 (biquadAt nm g (.peak .pk2))
            (unlessBypassed g.pbyp.pk1 (biquadAt nm g (.peak .pk1))
              (unlessBypassed g.pbyp.lc (cutStep nm g .lc) (x, d))))) ∧
    (∀ st : Stage, g.pbyp.get st.pos = true ∨
        (∃ c k, st = .cut c k ∧ (g.sbyp.get c).get k = true) →
      (chainStep nm g d x).2.get st = d.get st) ∧
    ((∀ p, g.pbyp.get p = true) → chainStep nm g d x = (x, d))

/-- PROC within its limits: each channel of the block runs its samples through its own chain and
delay records, its outputs are pushed in sample order, the response is the outputs, planar, and
nothing else changes, the right channel of a mono block included (42_mono_chain.md, section 2). -/
def Obligations.ProcFiltersAndPushes : Prop :=
  ∀ (nch : ChanCount) (n : BitVec 16) (payload : List F32) (s : State),
    payload.length = n.toNat * nch.toNat → s.prepared = true → n.toNat ≤ s.maxblk → ∃ t,
    exec (.proc nch n payload) s = .next t ∧
    (∀ c ∈ nch.chans,
      t.dly.get c = (chainRun s.num s.settings (s.dly.get c) (planar n.toNat payload c)).2 ∧
      (t.acc.get c, t.queue.get c) = pushRun s.maxblk s.cfg.qcap (s.acc.get c, s.queue.get c)
        (chainRun s.num s.settings (s.dly.get c) (planar n.toNat payload c)).1) ∧
    (∀ c, c ∉ nch.chans → t.dly.get c = s.dly.get c ∧ t.acc.get c = s.acc.get c
      ∧ t.queue.get c = s.queue.get c) ∧
    t = { s.withResponse .a (rspPacket false (nch.chans.flatMap fun c =>
            (chainRun s.num s.settings (s.dly.get c) (planar n.toNat payload c)).1)) with
          dly := t.dly, acc := t.acc, queue := t.queue }

/-- R164: n = 0 processes nothing, pushes nothing and emits no packet; it still faults with code 4
when PREPARED = 0. -/
def Obligations.ProcOfNoSamples : Prop :=
  ∀ (nch : ChanCount) (s : State),
    (s.prepared = true → exec (.proc nch 0#16 []) s = .next s) ∧
    (s.prepared = false → exec (.proc nch 0#16 []) s = .next (takeFault .a .notprep s))

/-- R163: samples u followed by samples w in one PROC, or in two with nothing between, give the same
output words, the same delay records and the same accumulators and queues. That NaN outputs agree bit
for bit rests on a NaN being a function of the operands (log 1). -/
def Obligations.ProcSplitsAnywhere : Prop :=
  ∀ (nch : ChanCount) (nu nw nuw : BitVec 16) (u w : Chan → List F32) (s : State),
    nuw.toNat = nu.toNat + nw.toNat → s.prepared = true → nuw.toNat ≤ s.maxblk →
    (∀ c ∈ nch.chans, (u c).length = nu.toNat ∧ (w c).length = nw.toNat) →
    ∃ (t t1 t2 : State) (ou ow : Chan → List F32),
      exec (.proc nch nuw (nch.chans.flatMap fun c => u c ++ w c)) s = .next t ∧
      exec (.proc nch nu (nch.chans.flatMap u)) s = .next t1 ∧
      exec (.proc nch nw (nch.chans.flatMap w)) t1 = .next t2 ∧
      t2 = { t with io := t2.io } ∧
      (∀ c ∈ nch.chans, (ou c).length = nu.toNat ∧ (ow c).length = nw.toNat) ∧
      t1 = { s.withResponse .a (rspPacket false (nch.chans.flatMap ou)) with
        dly := t1.dly, acc := t1.acc, queue := t1.queue } ∧
      t2.io.a.rsp = t1.io.a.rsp ++ rspPacket false (nch.chans.flatMap ow) ∧
      t.io.a.rsp = s.io.a.rsp ++ rspPacket false (nch.chans.flatMap fun c => ou c ++ ow c)

/-- A PROC in flight whose micro-steps run in any order ends, once it has responded, in the state
the whole command gives (20_memory.md, section 3). That NaN results of the two executions agree bit
for bit rests on a NaN being a function of the operands (log 1). -/
def Obligations.ProcOrderIndependent : Prop :=
  ∀ (nch : ChanCount) (n : BitVec 16) (payload : List F32) (s t : State) (es : List Event),
    payload.length = n.toNat * nch.toNat → s.prepared = true → n.toNat ≤ s.maxblk →
    (∀ e ∈ es, e.isProcStep = true) →
    RunsAgenda es { s with procRun := some (.start nch n.toNat payload) } t → t.procRun = none →
    exec (.proc nch n payload) { s with procRun := none, sched := [] } = .next t

/-- Whatever port V and `param_changed` do between the micro-steps of a PROC, its response, the
delay records and the accumulators are those of the whole command (20_memory.md, section 3). That NaN
results of the two executions agree bit for bit rests on a NaN being a function of the operands
(log 1). -/
def Obligations.PortVCannotChangeProc : Prop :=
  ∀ (nch : ChanCount) (n : BitVec 16) (payload : List F32) (s t u : State) (es : List Event),
    payload.length = n.toNat * nch.toNat → s.prepared = true → n.toNat ≤ s.maxblk →
    (∀ e ∈ es, e.besidePortA = true) →
    RunsAgenda es { s with procRun := some (.start nch n.toNat payload) } t → t.procRun = none →
    exec (.proc nch n payload) s = .next u →
    t.io.a = u.io.a ∧ t.dly = u.dly ∧ t.acc = u.acc ∧ t.settings = u.settings

/-- A PROC that is started goes in flight, and with an empty agenda it is done after two micro-steps
for each sample and one more, in the state the whole command gives; that the block then goes on
with it is the model's default order (log 8), and that NaN results of the two executions agree bit
for bit rests on a NaN being a function of the operands (log 1). -/
def Obligations.ProcInFlightFinishes : Prop :=
  ∀ (nch : ChanCount) (n : BitVec 16) (payload : List F32) (s : State),
    payload.length = n.toNat * nch.toNat → s.prepared = true → n.toNat ≤ s.maxblk →
    beginCommand (.proc nch n payload) s
      = .next { s with procRun := some (.start nch n.toNat payload) } ∧
    ∃ t, exec (.proc nch n payload) { s with procRun := none, sched := [] } = .next t ∧
      Runs (2 * (n.toNat * nch.toNat) + 1)
        { s with procRun := some (.start nch n.toNat payload), sched := [] } t

/-- MAGQ on a prepared block with a finite 0 ≤ f ≤ SRATE / 2 responds the product of the stage
magnitudes over the enabled positions and sections in order and changes nothing else; with every
position bypassed that is 1.0 (42_mono_chain.md, section 3). -/
def Obligations.MagqRespondsProduct : Prop :=
  ∀ (f : F32) (s : State), s.prepared = true → f.isFinite = true → fle F32.zero f = true →
    fle f (s.num.fdiv s.srate F32.two) = true →
    let m := Pos.order.foldl (fun m p =>
      if s.pbyp.get p then m
      else (stagesOf p).foldl (fun m st =>
        if stageBypass s.settings st then m
        else s.num.fmul m (s.num.stageMag (s.coef.get st) f s.srate)) m) F32.one
    exec (.magq f) s = .next (s.withResponse .a [⟨m, true, false⟩]) ∧
    ((∀ p, s.pbyp.get p = true) → m = 0x3F800000#32)

/-- The limits of the magnitude of one biquad (42_mono_chain.md, section 3), for every numeric record:
1.0 for the identity set; |g| for a finite pure gain; at f = 0 the quotient of the rule; and an
infinity or a NaN wherever the denominator of the transfer function over the real numbers is zero, a
pole on the unit circle at w = 2 pi f / SRATE. The model's reading, log 5: the order of the sums at
f = 0, and that f = -0.0 counts as 0. The model's choice, log 24: where an arithmetic other than
binary32 gives two values at f = 0, the gain holds over the quotient, and the quotient over the pole
where 1 + a1 + a2 = 0. -/
def Obligations.StageMagnitudeLimits : Prop :=
  (∀ (nm : NumChoice) (f sr : F32),
    nm.record.stageMag ⟨F32.one, F32.zero, F32.zero, F32.zero, F32.zero⟩ f sr = F32.one) ∧
  (∀ (nm : NumChoice) (g f sr : F32), g.isFinite = true →
    nm.record.stageMag ⟨g, F32.zero, F32.zero, F32.zero, F32.zero⟩ f sr = fabs g) ∧
  (∀ (nm : NumChoice) (k : Coef) (f sr : F32), feq f F32.zero = true →
    (∃ j, nm = .binary32 j) ∨
      ¬(k.b0.isFinite = true ∧ k = ⟨k.b0, F32.zero, F32.zero, F32.zero, F32.zero⟩) →
    nm.record.stageMag k f sr = nm.record.fdiv
      (fabs (nm.record.fadd (nm.record.fadd k.b0 k.b1) k.b2))
      (fabs (nm.record.fadd (nm.record.fadd F32.one k.a1) k.a2))) ∧
  (∀ (nm : NumChoice) (k : Coef) (f sr : F32), k.a1.isFinite = true → k.a2.isFinite = true →
    f.isFinite = true → feq f F32.zero = false → sr.isFinite = true → flt F32.zero sr = true →
    let w : ℝ := 2 * Real.pi * (f.exact / sr.exact)
    (F32.one.exact : ℝ) + k.a1.exact * Real.cos w + k.a2.exact * Real.cos (2 * w) = 0 →
    (k.a1.exact : ℝ) * Real.sin w + k.a2.exact * Real.sin (2 * w) = 0 →
    (nm.record.stageMag k f sr).isFinite = false)

/-! ### The arithmetic -/

/-- The sum and the difference in binary32 (00_scope.md, section 4). Of finite values: the exact one
rounded to nearest, ties to even, an infinity from the overflow bound on; an exact zero is -0.0 only
as the sum of two negative zeros. Of infinities: an infinity wins over a finite value and agrees with
one of its own sign; two that cancel give a NaN, and so does a NaN operand. -/
def Obligations.SumCorrectlyRounded : Prop :=
  ∀ (j : Nat) (a b : F32),
    (a.isFinite = true → b.isFinite = true →
      RoundsTo (a.exact + b.exact) 1
        (if a.exact + b.exact = 0 then a.neg? && b.neg? else decide (a.exact + b.exact < 0))
        (fadd j a b) ∧
      RoundsTo (a.exact - b.exact) 1
        (if a.exact - b.exact = 0 then a.neg? && !b.neg? else decide (a.exact - b.exact < 0))
        (fsub j a b)) ∧
    (a.isInf = true → b.isFinite = true ∨ (b.isInf = true ∧ a.neg? = b.neg?) → fadd j a b = a) ∧
    (a.isInf = true → b.isFinite = true ∨ (b.isInf = true ∧ a.neg? ≠ b.neg?) → fsub j a b = a) ∧
    (a.isFinite = true → b.isInf = true → fadd j a b = b ∧ fsub j a b = fneg b) ∧
    (a.isInf = true → b.isInf = true →
      (a.neg? ≠ b.neg? → (fadd j a b).isNaN = true) ∧
      (a.neg? = b.neg? → (fsub j a b).isNaN = true)) ∧
    (a.isNaN = true ∨ b.isNaN = true → (fadd j a b).isNaN = true ∧ (fsub j a b).isNaN = true)

/-- The product and the quotient in binary32 (00_scope.md, section 4). Of finite values, the divisor
not zero: the exact one rounded to nearest, ties to even, an infinity from the overflow bound on, its
sign that of the operands together, on a zero too. Zero times an infinity, zero by zero, an infinity
by an infinity and a NaN operand give a NaN; other infinite operands and a division by zero give an
infinity, and a finite value by an infinity a zero, with that sign. Exact values are in units of
2^-149, so a product of two is in units of 2^-298. -/
def Obligations.ProductCorrectlyRounded : Prop :=
  ∀ (j : Nat) (a b : F32),
    let neg := a.neg? != b.neg?
    (a.isFinite = true → b.isFinite = true →
      RoundsTo (a.exact * b.exact) (2 ^ 149) neg (fmul j a b) ∧
      (b.exact ≠ 0 → RoundsTo (a.exact * b.exact.sign * 2 ^ 149) b.exact.natAbs neg (fdiv j a b)) ∧
      (b.exact = 0 → a.exact ≠ 0 → fdiv j a b = withSign neg F32.inf.toNat) ∧
      (b.exact = 0 → a.exact = 0 → (fdiv j a b).isNaN = true)) ∧
    (a.isInf = true → b.isFinite = true →
      (b.exact = 0 → (fmul j a b).isNaN = true ∧ (fmul j b a).isNaN = true) ∧
      (b.exact ≠ 0 → fmul j a b = withSign neg F32.inf.toNat
        ∧ fmul j b a = withSign neg F32.inf.toNat) ∧
      fdiv j a b = withSign neg F32.inf.toNat ∧ fdiv j b a = withSign neg 0) ∧
    (a.isInf = true → b.isInf = true →
      fmul j a b = withSign neg F32.inf.toNat ∧ (fdiv j a b).isNaN = true) ∧
    (a.isNaN = true ∨ b.isNaN = true → (fmul j a b).isNaN = true ∧ (fdiv j a b).isNaN = true)

/-! ### The sample queues -/

/-- R193, R196: a push appends the sample to the accumulator and, when that makes a block, appends
the block to the queue if it has room, drops it if not, and empties the accumulator; a pull answers
none on an empty queue and else removes and answers the oldest block. Nothing else changes. -/
def Obligations.SampleQueuePrimitives : Prop :=
  (∀ (c : Chan) (v : F32) (s : State),
    let blk := s.acc.get c ++ [v]
    qPush c v s =
      if blk.length = s.maxblk then
        if (s.queue.get c).length < s.cfg.qcap then
          { s with acc := s.acc.set c [], queue := s.queue.set c (s.queue.get c ++ [blk]) }
        else { s with acc := s.acc.set c [] }
      else { s with acc := s.acc.set c blk }) ∧
  (∀ (c : Chan) (s : State),
    (s.queue.get c = [] → qPull c s = none) ∧
    (∀ blk rest, s.queue.get c = blk :: rest →
      qPull c s = some (blk, { s with queue := s.queue.set c rest })))

/-- A micro-step that is no command and no reset changes a queue only by appending the block that the
oldest output not yet pushed of the PROC in flight completes, when there is room, or by removing the
oldest block of the TICK in flight's channel into its rolling buffer (20_memory.md, section 3). The
micro-step is an event of the agenda or, where that is empty, the default one (log 8). -/
def Obligations.QueueChangesByMicroStep : Prop :=
  ∀ (s t : State) (c : Chan) (e : Event) (es : List Event), nextEvent s = some (e, es) →
    (∀ p, e ≠ .command p ∧ e ≠ .start p) → e ≠ .reset → step s = .next t →
    t.queue.get c = s.queue.get c ∨
    (e = .push c ∧ ∃ run ln v, s.procRun = some run ∧ run.lane? c = some ln ∧
      ln.pend.head? = some v ∧ (s.queue.get c).length < s.cfg.qcap ∧
      (s.acc.get c).length + 1 = s.maxblk ∧
      t.queue.get c = s.queue.get c ++ [s.acc.get c ++ [v]] ∧ t.acc.get c = []) ∨
    (e = .tick ∧ ∃ run blk, s.tickRun = some run ∧ run.ch = c ∧
      s.queue.get c = blk :: t.queue.get c ∧
      t.roll.get c = (s.roll.get c).drop blk.length ++ blk)

/-! ### The analyzer -/

/-- R214: with N samples in the rolling buffer and a block of B ≤ N, element j of the new buffer is
element j + B of the old one for j < N - B and element j - (N - B) of the block after that; the
other channel is unchanged, and with B = N the whole buffer is replaced. -/
def Obligations.RollShiftMovesLeft : Prop :=
  ∀ (c : Chan) (blk : List F32) (s : State), (s.roll.get c).length = s.cfg.n →
    blk.length ≤ s.cfg.n →
    ((rollShift c blk s).roll.get c).length = s.cfg.n ∧
    (∀ j, j < s.cfg.n - blk.length →
      ((rollShift c blk s).roll.get c)[j]? = (s.roll.get c)[j + blk.length]?) ∧
    (∀ j, j < blk.length →
      ((rollShift c blk s).roll.get c)[s.cfg.n - blk.length + j]? = blk[j]?) ∧
    (blk.length = s.cfg.n → (rollShift c blk s).roll.get c = blk) ∧
    (∀ d, d ≠ c → (rollShift c blk s).roll.get d = s.roll.get d) ∧
    rollShift c blk s = { s with roll := (rollShift c blk s).roll }

/-- PULL on a prepared block with the analyzer enabled takes the oldest block of the channel into
its rolling buffer and responds 1, or responds 0 and changes nothing when there is none
(45_analyzer.md, section 2). -/
def Obligations.PullMovesOldestBlock : Prop :=
  ∀ (c : Chan) (s : State), s.prepared = true → s.anen = true →
    (s.queue.get c = [] → exec (.pull c) s = .next (s.withResponse .v [⟨0#32, true, false⟩])) ∧
    (∀ blk rest, s.queue.get c = blk :: rest →
      exec (.pull c) s = .next { s.withResponse .v [⟨1#32, true, false⟩] with
        queue := s.queue.set c rest
        roll := s.roll.set c ((s.roll.get c).drop blk.length ++ blk) })

/-- FFTRUN on a prepared block with the analyzer enabled appends the frame of the rolling buffer,
N/2 decibel values, and responds 1, or drops it and responds 0 when the frame queue is full; nothing
else changes (45_analyzer.md, section 3). -/
def Obligations.FftrunQueuesFrame : Prop :=
  ∀ (c : Chan) (s : State), s.prepared = true → s.anen = true →
    let frame := (s.num.dftmag
      (List.zipWith s.num.fmul (s.cfg.win.values (2 ^ s.cfg.order)) (s.roll.get c))
      (2 ^ s.cfg.order / 2)).map fun m =>
        toDb s.num s.floor (s.num.fdiv m (f32OfNat (2 ^ s.cfg.order / 2)))
    frame.length = 2 ^ s.cfg.order / 2 ∧
    ((s.fq.get c).length < s.cfg.fcap →
      exec (.fftrun c) s = .next { s.withResponse .v [⟨1#32, true, false⟩] with
        fq := s.fq.set c (s.fq.get c ++ [frame]) }) ∧
    (s.cfg.fcap ≤ (s.fq.get c).length →
      exec (.fftrun c) s = .next (s.withResponse .v [⟨0#32, true, false⟩]))

/-- R226: a magnitude that is not finite or not above zero reads FLOOR, another the larger of FLOOR
and 20 log10 of it; no decibel value is below FLOOR, and there is no upper clamp. -/
def Obligations.DecibelNeverBelowFloor : Prop :=
  ∀ (nm : NumRecord) (floor m : F32), legalFloor floor = true →
    (m.isFinite = false ∨ flt F32.zero m = false → toDb nm floor m = floor) ∧
    (m.isFinite = true → flt F32.zero m = true →
      toDb nm floor m =
        if flt floor (nm.fmul F32.twenty (nm.flog10 m)) then nm.fmul F32.twenty (nm.flog10 m)
        else floor) ∧
    fle floor (toDb nm floor m) = true

/-- PATHGEN on a prepared block with finite bounds and the analyzer enabled responds the number of
pending frames; with none it changes nothing else, else the newest becomes the current frame, its
path the current path and no frame is pending (45_analyzer.md, section 4). -/
def Obligations.PathgenShowsNewestFrame : Prop :=
  ∀ (c : Chan) (b : Bounds) (s : State), s.prepared = true → someBoundNotFinite b = false →
    s.anen = true →
    (s.fq.get c = [] → exec (.pathgen c b) s = .next (s.withResponse .v [⟨0#32, true, false⟩])) ∧
    (∀ older newest, s.fq.get c = older ++ [newest] →
      exec (.pathgen c b) s = .next
        { s.withResponse .v [⟨BitVec.ofNat 32 (older.length + 1), true, false⟩] with
          fq := s.fq.set c []
          curframe := s.curframe.set c (some newest)
          curpath := s.curpath.set c (makePath s.cfg s.srate s.floor b newest) })

/-- The points of a path: one for each bin whose frequency is in FMIN..FMAX, in increasing bin
order, x and y by the two maps (45_analyzer.md, section 4). -/
def Obligations.PathHasOnePointPerBinInRange : Prop :=
  ∀ (cfg : Config) (srate floor : F32) (b : Bounds) (frame : List F32),
    let nm := cfg.num.record
    let f := fun k => nm.fdiv (nm.fmul (f32OfNat k) srate) (f32OfNat (2 ^ cfg.order))
    let bottom := nm.fadd b.top b.height
    makePath cfg srate floor b frame =
      ((List.range frame.length).filter fun k => fle cfg.fmin (f k) && fle (f k) cfg.fmax).map
        fun k =>
          ⟨nm.fadd b.left (nm.fmul b.width (nm.fdiv (nm.flog10 (nm.fdiv (f k) cfg.fmin))
              (nm.flog10 (nm.fdiv cfg.fmax cfg.fmin)))),
            nm.fadd bottom (nm.fmul (nm.fdiv (nm.fsub (frame.getD k 0#32) floor)
              (nm.fsub 0#32 floor)) (nm.fsub b.top bottom))⟩

/-- RDFRAME responds N/2 and the values of the current frame, or the single word 0 when there is
none; RDPATH the number of points and their coordinates; both in every mode and without any other
effect (45_analyzer.md, section 4). -/
def Obligations.FrameAndPathReadback : Prop :=
  ∀ (c : Chan) (s : State),
    (s.curframe.get c = none →
      exec (.rdframe c) s = .next (s.withResponse .v [⟨0#32, true, false⟩])) ∧
    (∀ frame, s.curframe.get c = some frame →
      exec (.rdframe c) s = .next (s.withResponse .v
        (rspPacket false (BitVec.ofNat 32 (2 ^ s.cfg.order / 2) :: frame)))) ∧
    exec (.rdpath c) s = .next (s.withResponse .v
      (rspPacket false (BitVec.ofNat 32 (s.curpath.get c).length ::
        (s.curpath.get c).flatMap fun p => [p.x, p.y])))

/-- TICK run whole on a prepared block with finite bounds and the analyzer enabled: each channel's
queue is drained into its rolling buffer with one frame after each block, frames past FCAP are
dropped, and the newest frame kept becomes the current one; no response, nothing else changes
(45_analyzer.md, section 5). -/
def Obligations.TickShowsNewestKeptFrame : Prop :=
  ∀ (b : Bounds) (s : State), s.Inv → s.prepared = true → someBoundNotFinite b = false →
    s.anen = true → ∃ t, exec (.tick b) s = .next t ∧
    t = { s with queue := t.queue, roll := t.roll, fq := t.fq, curframe := t.curframe,
                 curpath := t.curpath } ∧
    ∀ c : Chan,
      let rolls := rollsAfter (s.roll.get c) (s.queue.get c)
      let kept := (s.fq.get c ++ rolls.map (spectrumDb s.cfg s.floor)).take s.cfg.fcap
      t.queue.get c = [] ∧ t.fq.get c = [] ∧ t.roll.get c = rolls.getLastD (s.roll.get c) ∧
      (kept = [] → t.curframe.get c = s.curframe.get c ∧ t.curpath.get c = s.curpath.get c) ∧
      (∀ newest, kept.getLast? = some newest → t.curframe.get c = some newest ∧
        t.curpath.get c = makePath s.cfg s.srate s.floor b newest)

/-- A TICK in flight with nothing between its micro-steps ends, within four micro-steps for each
slot of a queue and four more, in the state the whole command gives (45_analyzer.md, section 5). That
NaN results of the two executions, path coordinates among them, agree bit for bit rests on a NaN being
a function of the operands (log 1). -/
def Obligations.TickMicroStepsRefineTick : Prop :=
  ∀ (b : Bounds) (s : State), s.prepared = true → someBoundNotFinite b = false → s.anen = true →
    beginCommand (.tick b) s = .next { s with tickRun := some (.start b .l s.cfg.qcap) } ∧
    (∀ (t : State) (es : List Event), (∀ e ∈ es, e = .tick) →
      RunsAgenda es { s with tickRun := some (.start b .l s.cfg.qcap) } t → t.tickRun = none →
      exec (.tick b) { s with tickRun := none, sched := [] } = .next t) ∧
    ∃ t, RunsAgenda (List.replicate (4 * s.cfg.qcap + 4) .tick)
      { s with tickRun := some (.start b .l s.cfg.qcap) } t ∧ t.tickRun = none

/-- R211: the commands that work check PREPARED first and then ANEN; with ANEN = 0 PULL, FFTRUN,
PATHGEN and TICK change no state and those with a response word respond 0; RDFRAME and RDPATH are
gated by neither. -/
def Obligations.DisabledAnalyzerDoesNothing : Prop :=
  (∀ (c : Chan) (b : Bounds) (s : State), s.prepared = true → s.anen = false →
    someBoundNotFinite b = false →
    exec (.pull c) s = .next (s.withResponse .v [⟨0#32, true, false⟩]) ∧
    exec (.fftrun c) s = .next (s.withResponse .v [⟨0#32, true, false⟩]) ∧
    exec (.pathgen c b) s = .next (s.withResponse .v [⟨0#32, true, false⟩]) ∧
    exec (.tick b) s = .next s) ∧
  (∀ (c : Chan) (b : Bounds) (s : State), s.prepared = false →
    exec (.pull c) s = .next (takeFault .v .notprep s) ∧
    exec (.fftrun c) s = .next (takeFault .v .notprep s) ∧
    exec (.pathgen c b) s = .next (takeFault .v .notprep s) ∧
    exec (.tick b) s = .next (takeFault .v .notprep s)) ∧
  (∀ (c : Chan) (s : State), ∃ frame path : List Word, ∀ (prepared anen : Bool) (t : State),
    t = { s with prepared := prepared, anen := anen } →
    exec (.rdframe c) t = .next (t.withResponse .v (rspPacket false frame)) ∧
    exec (.rdpath c) t = .next (t.withResponse .v (rspPacket false path)))

/-! ### Whole-machine rules -/

/-- What a command of one port cannot touch (10_state.md, section 6; 60_exceptions.md, section 3):
no port-V command changes anything of the filters, the session, the accumulators or port A; no
port-A command changes ANEN, FLOOR, DIRTY or anything of port V, and none but PREPARE the rolling
buffers, frames and paths; no command changes the parameters or the agenda; starting one puts it in
flight or is the whole of it. What every other event cannot touch (20_memory.md, section 3): a filter
step writes the delay records of its channel, a push its accumulator and queue, the response step the
responses of port A, a step of a TICK the queue and the analyzer's storage of the channel the TICK in
flight is at (nothing where none is in flight), a word accepted or taken the streams of its port,
`param_changed` DIRTY, and nothing else. The event is of the agenda or, where that is empty, the
default one (log 8). -/
def Obligations.PortsOwnTheirState : Prop :=
  (∀ (i : Instr) (s t : State), exec i s = .next t →
    t.cfg = s.cfg ∧ t.sched = s.sched ∧ t.procRun = s.procRun ∧ t.tickRun = s.tickRun ∧
    (i.port = .v → t.coef = s.coef ∧ t.dly = s.dly ∧ t.pbyp = s.pbyp ∧ t.sbyp = s.sbyp
      ∧ t.slope = s.slope ∧ t.prepared = s.prepared ∧ t.srate = s.srate ∧ t.maxblk = s.maxblk
      ∧ t.acc = s.acc ∧ t.fstat.a = s.fstat.a ∧ t.io.a = s.io.a) ∧
    (i.port = .a → t.anen = s.anen ∧ t.floor = s.floor ∧ t.dirty = s.dirty
      ∧ t.fstat.v = s.fstat.v ∧ t.io.v = s.io.v) ∧
    (i.port = .a → (∀ sr mb, i ≠ .prepare sr mb) → t.roll = s.roll ∧ t.fq = s.fq
      ∧ t.curframe = s.curframe ∧ t.curpath = s.curpath)) ∧
  (∀ (i : Instr) (s t : State), beginCommand i s = .next t → exec i s = .next t ∨
    (i.port = .a ∧ t = { s with procRun := t.procRun }) ∨
    (i.port = .v ∧ t = { s with tickRun := t.tickRun })) ∧
  (∀ (e : Event) (es : List Event) (s t : State), nextEvent s = some (e, es) → step s = .next t →
    match e with
    | .filter c =>
      t = { s with sched := es, procRun := t.procRun, dly := s.dly.set c (t.dly.get c) }
    | .push c =>
      t = { s with sched := es, procRun := t.procRun, acc := s.acc.set c (t.acc.get c),
                   queue := s.queue.set c (t.queue.get c) }
    | .respond =>
      t = { s with sched := es, procRun := t.procRun,
                   io := ⟨⟨s.io.a.cmd, s.io.a.rx, t.io.a.rsp⟩, s.io.v⟩ }
    | .tick =>
      match s.tickRun with
      | none => t = { s with sched := es }
      | some run =>
        t = { s with sched := es, tickRun := t.tickRun,
                     queue := s.queue.set run.ch (t.queue.get run.ch)
                     roll := s.roll.set run.ch (t.roll.get run.ch)
                     fq := s.fq.set run.ch (t.fq.get run.ch)
                     curframe := s.curframe.set run.ch (t.curframe.get run.ch)
                     curpath := s.curpath.set run.ch (t.curpath.get run.ch) }
    | .accept p =>
      let x := s.io.get p
      let y := t.io.get p
      t = { s with sched := es, io := s.io.set p ⟨y.cmd, y.rx, x.rsp⟩ }
    | .take p =>
      let x := s.io.get p
      let y := t.io.get p
      t = { s with sched := es, io := s.io.set p ⟨x.cmd, x.rx, y.rsp⟩ }
    | .paramChanged => t = { s with sched := es, dirty := true }
    | .command _ | .start _ | .reset => True)

/-- Who writes the filter registers (10_state.md, sections 2 and 4): COEF changes only in SETCOEF and
CUTUPD, a delay record only in PROC and PREPARE, a position flag only in SETBYP; of the events that
are no command and no reset only a filter step changes a delay record, and of its channel alone, and
none changes COEF or a position flag, whether the agenda names the event or it is the default one of
an empty agenda (log 8). -/
def Obligations.FilterRegisterWriters : Prop :=
  (∀ (i : Instr) (s t : State), exec i s = .next t →
    ((∀ st k, i ≠ .setcoef st k) → (∀ c o sets, i ≠ .cutupd c o sets) → t.coef = s.coef) ∧
    ((∀ nch n payload, i ≠ .proc nch n payload) → (∀ sr mb, i ≠ .prepare sr mb) →
      t.dly = s.dly) ∧
    ((∀ p flag, i ≠ .setbyp p flag) → t.pbyp = s.pbyp)) ∧
  (∀ (e : Event) (es : List Event) (s t : State), nextEvent s = some (e, es) →
    (∀ p, e ≠ .command p ∧ e ≠ .start p) → e ≠ .reset → step s = .next t →
    t.coef = s.coef ∧ t.pbyp = s.pbyp ∧ ∀ c, e ≠ .filter c → t.dly.get c = s.dly.get c)
end

