-- ==== Sys2Proof/Laws/Encoding.lean ====
section
/-! SUPPORT. What the header fields of an encoded command hold, once for each header format
(30_encoding.md R91 to R95). -/

open Sys2Proof

/-- The opcode map is read back from its codes (R96). -/
@[simp] theorem Sys2Proof.Op.ofCode?_code (op : Op) : Op.ofCode? op.code = some op := by
  cases op <;> rfl

theorem Sys2Proof.Op.code_lt (op : Op) : op.code < 0x17 := by
  cases op <;> decide

/-- The fields of a format-S header (R93). -/
theorem Sys2Proof.headerS_fields (op : Op) {pos sec ch flag : Nat} (hp : pos < 16) (hs : sec < 16)
    (hc : ch < 2) (hf : flag < 2) :
    fieldOf (headerS op pos sec ch flag) 31 24 = op.code ∧
    fieldOf (headerS op pos sec ch flag) 23 20 = pos ∧
    fieldOf (headerS op pos sec ch flag) 19 16 = sec ∧
    fieldOf (headerS op pos sec ch flag) 15 9 = 0 ∧
    fieldOf (headerS op pos sec ch flag) 8 8 = ch ∧
    fieldOf (headerS op pos sec ch flag) 7 1 = 0 ∧
    fieldOf (headerS op pos sec ch flag) 0 0 = flag := by
  have hop := op.code_lt
  simp only [fieldOf, headerS, BitVec.toNat_ofNat]
  omega

/-- The fields of a format-Z header (R92). -/
theorem Sys2Proof.headerZ_fields (op : Op) :
    fieldOf (headerZ op) 31 24 = op.code ∧ fieldOf (headerZ op) 23 0 = 0 := by
  have hop := op.code_lt
  simp only [fieldOf, headerZ, BitVec.toNat_ofNat]
  omega

/-- The fields of a format-B header (R94). -/
theorem Sys2Proof.headerB_fields (op : Op) {nch n : Nat} (hc : nch < 4) (hn : n < 2 ^ 16) :
    fieldOf (headerB op nch n) 31 24 = op.code ∧ fieldOf (headerB op nch n) 23 18 = 0 ∧
    fieldOf (headerB op nch n) 17 16 = nch ∧ fieldOf (headerB op nch n) 15 0 = n := by
  have hop := op.code_lt
  simp only [fieldOf, headerB, BitVec.toNat_ofNat]
  omega

/-- The fields of a format-C header (R95). -/
theorem Sys2Proof.headerC_fields (op : Op) {addr : Nat} (ha : addr < 2 ^ 16) :
    fieldOf (headerC op addr) 31 24 = op.code ∧ fieldOf (headerC op addr) 23 16 = 0 ∧
    fieldOf (headerC op addr) 15 0 = addr := by
  have hop := op.code_lt
  simp only [fieldOf, headerC, BitVec.toNat_ofNat]
  omega

theorem Sys2Proof.Pos.toNat_lt (p : Pos) : p.toNat < 16 := by
  rcases p with c | k
  · cases c <;> decide
  · cases k <;> decide

theorem Sys2Proof.Sec.toNat_lt (s : Sec) : s.toNat < 16 := by cases s <;> decide

theorem Sys2Proof.Chan.toNat_lt (c : Chan) : c.toNat < 2 := by cases c <;> decide

theorem Sys2Proof.ChanCount.toNat_lt (n : ChanCount) : n.toNat < 4 := by cases n <;> decide

theorem Sys2Proof.Csr.addr_lt (r : Csr) : r.addr < 2 ^ 16 := by cases r <;> decide
end

