-- ==== Sys2Proof/Laws/Float.lean ====
section
/-! SUPPORT. What the arithmetic of 00_scope.md R12 does with NaNs, and the limits R13 and R172 set
on the free functions. -/

namespace Sys2Proof

/-- The NaN an operation answers is a NaN, whatever the free choice is (R12, U6). -/
@[simp] theorem asNaN_isNaN (w : F32) : (asNaN w).isNaN = true := by
  unfold asNaN
  split
  · assumption
  · have h : ∀ v : F32, (v ||| 0x7FC00000#32).toNat / 2 ^ 23 % 2 ^ 8 = 255
        ∧ (v ||| 0x7FC00000#32).toNat % 2 ^ 23 ≠ 0 := by
      intro v
      have e : (v ||| 0x7FC00000#32).toNat = v.toNat ||| 0x7FC00000 := by simp
      rw [e]
      constructor
      · apply Nat.eq_of_testBit_eq
        intro i
        rw [Nat.testBit_mod_two_pow, Nat.testBit_div_two_pow, Nat.testBit_or]
        rcases Nat.lt_or_ge i 8 with hi | hi
        · have : (0x7FC00000 : Nat).testBit (23 + i) = true ∧ (255 : Nat).testBit i = true := by
            interval_cases i <;> decide
          rw [Nat.add_comm] at this
          simp [hi, this.1, this.2]
        · have : (255 : Nat).testBit i = false :=
            Nat.testBit_lt_two_pow (lt_of_lt_of_le (by norm_num : 255 < 2 ^ 8)
              (Nat.pow_le_pow_right (by norm_num) hi))
          simp [this, Nat.not_lt.mpr hi]
      · intro hz
        have hb := congrArg (Nat.testBit · 22) hz
        simp only [Nat.testBit_mod_two_pow, Nat.testBit_or] at hb
        have : (0x7FC00000 : Nat).testBit 22 = true := by decide
        simp [this] at hb
    obtain ⟨h1, h2⟩ := h w
    simp only [F32.isNaN, F32.expo, F32.frac, Bool.and_eq_true, beq_iff_eq, bne_iff_ne]
    exact ⟨h1, h2⟩

@[simp] theorem nanOf_isNaN (j : Nat) (op : ArithOp) (a b : F32) : (nanOf j op a b).isNaN = true :=
  asNaN_isNaN _

/-- The exponent and fraction fields do not depend on the sign. -/
theorem fneg_isNaN (a : F32) : (fneg a).isNaN = a.isNaN := by
  have h : (fneg a).toNat % 2 ^ 31 = a.toNat % 2 ^ 31 := by
    apply Nat.eq_of_testBit_eq
    intro i
    have e : (fneg a).toNat = a.toNat ^^^ 0x80000000 := by simp [fneg]
    rw [e, Nat.testBit_mod_two_pow, Nat.testBit_mod_two_pow, Nat.testBit_xor]
    rcases Nat.lt_or_ge i 31 with hi | hi
    · have : (0x80000000 : Nat).testBit i = false := by
        have := Nat.testBit_two_pow (n := 31) (m := i)
        norm_num at this
        rw [this]
        exact decide_eq_false (by omega)
      simp [this]
    · simp [Nat.not_lt.mpr hi]
  have h1 : (fneg a).expo = a.expo := by
    unfold F32.expo
    omega
  have h2 : (fneg a).frac = a.frac := by
    unfold F32.frac
    omega
  simp [F32.isNaN, h1, h2]

/-- A sum with a NaN operand is a NaN (R12). -/
theorem fadd_isNaN_of_nan (j : Nat) {a b : F32} (h : a.isNaN = true ∨ b.isNaN = true) :
    (fadd j a b).isNaN = true := by
  have : sum? a b = none := by
    rcases h with h | h <;> simp [sum?, h]
  simp [fadd, this]

/-- A difference with a NaN operand is a NaN (R12). -/
theorem fsub_isNaN_of_nan (j : Nat) {a b : F32} (h : a.isNaN = true ∨ b.isNaN = true) :
    (fsub j a b).isNaN = true := by
  have : sum? a (fneg b) = none := by
    rcases h with h | h <;> simp [sum?, h, fneg_isNaN]
  simp [fsub, this]

/-- A product with a NaN operand is a NaN, zero times NaN included (R12, R123). -/
theorem fmul_isNaN_of_nan (j : Nat) {a b : F32} (h : a.isNaN = true ∨ b.isNaN = true) :
    (fmul j a b).isNaN = true := by
  have : product? a b = none := by
    rcases h with h | h <;> simp [product?, h]
  simp [fmul, this]

/-- Zero times an infinity is a NaN (R123). -/
theorem fmul_zero_inf_isNaN (j : Nat) : (fmul j F32.zero F32.inf).isNaN = true := by
  have : product? F32.zero F32.inf = none := by decide
  simp [fmul, this]

/-- The fields of the record of a choice (R7, R12, R13). -/
@[simp] theorem NumChoice.record_fadd (nm : NumChoice) : nm.record.fadd = nm.fadd := rfl
@[simp] theorem NumChoice.record_fsub (nm : NumChoice) : nm.record.fsub = nm.fsub := rfl
@[simp] theorem NumChoice.record_fmul (nm : NumChoice) : nm.record.fmul = nm.fmul := rfl
@[simp] theorem NumChoice.record_fdiv (nm : NumChoice) : nm.record.fdiv = nm.fdiv := rfl
@[simp] theorem NumChoice.record_flog10 (nm : NumChoice) :
    nm.record.flog10 = Sys2Proof.flog10 nm := rfl
@[simp] theorem NumChoice.record_dftmag (nm : NumChoice) :
    nm.record.dftmag = Sys2Proof.dftmag nm := rfl
@[simp] theorem NumChoice.record_stageMag (nm : NumChoice) :
    nm.record.stageMag = Sys2Proof.stageMag nm := rfl

/-- The arithmetic of a binary32 record is that of R12. -/
@[simp] theorem NumChoice.fadd_binary32 (j : Nat) :
    (NumChoice.binary32 j).fadd = Sys2Proof.fadd j := rfl
@[simp] theorem NumChoice.fsub_binary32 (j : Nat) :
    (NumChoice.binary32 j).fsub = Sys2Proof.fsub j := rfl
@[simp] theorem NumChoice.fmul_binary32 (j : Nat) :
    (NumChoice.binary32 j).fmul = Sys2Proof.fmul j := rfl
@[simp] theorem NumChoice.fdiv_binary32 (j : Nat) :
    (NumChoice.binary32 j).fdiv = Sys2Proof.fdiv j := rfl

/-- The decimal logarithm of 1.0 is +0.0 (R13). -/
@[simp] theorem flog10_one (nm : NumChoice) : flog10 nm F32.one = F32.zero := by simp [flog10]

/-- The decimal logarithm of a finite operand above 1.0 is finite and greater than zero (R13). -/
theorem flog10_of_one_lt (nm : NumChoice) {x : F32} (hf : x.isFinite = true) (h : flt F32.one x = true) :
    (flog10 nm x).isFinite = true ∧ flt F32.zero (flog10 nm x) = true := by
  have hx : x ≠ F32.one := by
    rintro rfl
    exact absurd h (by decide)
  simp only [flog10, hx, if_false, hf, h, Bool.and_self, if_true]
  split
  · next hy => simpa using hy
  · decide

@[simp] theorem fcos_zero (nm : NumChoice) : fcos nm F32.zero = F32.one := by simp [fcos]

@[simp] theorem fsin_zero (nm : NumChoice) : fsin nm F32.zero = F32.zero := by simp [fsin]

/-- The spectrum has the bins asked for (R224). -/
@[simp] theorem dftmag_length (nm : NumChoice) (v : List F32) (count : Nat) :
    (dftmag nm v count).length = count := by
  unfold dftmag
  split <;> simp

/-- The spectrum of an all-zero input is all +0.0 (R13, R224). -/
theorem dftmag_of_allZero (nm : NumChoice) {v : List F32} (count : Nat) (h : allZero v = true) :
    dftmag nm v count = List.replicate count F32.zero := by
  simp [dftmag, h]

end Sys2Proof
end

