-- ==== Sys2Proof/Laws/State.lean ====
section
/-! SUPPORT. One lemma for each field a named update of the state leaves alone, true by
definition, and the fields it writes where that is one expression. No later proof need unfold a
record update. -/

namespace Sys2Proof.Machine

variable (s : State)

section
variable (p : PortId) (e : Bool) (ws : List Word)

@[simp] theorem emit_cfg : (emit p e ws s).cfg = s.cfg := rfl
@[simp] theorem emit_coef : (emit p e ws s).coef = s.coef := rfl
@[simp] theorem emit_dly : (emit p e ws s).dly = s.dly := rfl
@[simp] theorem emit_pbyp : (emit p e ws s).pbyp = s.pbyp := rfl
@[simp] theorem emit_sbyp : (emit p e ws s).sbyp = s.sbyp := rfl
@[simp] theorem emit_slope : (emit p e ws s).slope = s.slope := rfl
@[simp] theorem emit_prepared : (emit p e ws s).prepared = s.prepared := rfl
@[simp] theorem emit_srate : (emit p e ws s).srate = s.srate := rfl
@[simp] theorem emit_maxblk : (emit p e ws s).maxblk = s.maxblk := rfl
@[simp] theorem emit_acc : (emit p e ws s).acc = s.acc := rfl
@[simp] theorem emit_queue : (emit p e ws s).queue = s.queue := rfl
@[simp] theorem emit_roll : (emit p e ws s).roll = s.roll := rfl
@[simp] theorem emit_fq : (emit p e ws s).fq = s.fq := rfl
@[simp] theorem emit_curframe : (emit p e ws s).curframe = s.curframe := rfl
@[simp] theorem emit_curpath : (emit p e ws s).curpath = s.curpath := rfl
@[simp] theorem emit_anen : (emit p e ws s).anen = s.anen := rfl
@[simp] theorem emit_floor : (emit p e ws s).floor = s.floor := rfl
@[simp] theorem emit_dirty : (emit p e ws s).dirty = s.dirty := rfl
@[simp] theorem emit_fstat : (emit p e ws s).fstat = s.fstat := rfl
@[simp] theorem emit_procRun : (emit p e ws s).procRun = s.procRun := rfl
@[simp] theorem emit_tickRun : (emit p e ws s).tickRun = s.tickRun := rfl
@[simp] theorem emit_sched : (emit p e ws s).sched = s.sched := rfl
theorem emit_io : (emit p e ws s).io
    = s.io.set p (PortIO.mk (s.io.get p).cmd (s.io.get p).rx ((s.io.get p).rsp ++ rspPacket e ws)) := rfl

end

section
variable (p : PortId) (ws : List Word)

@[simp] theorem respond_cfg : (respond p ws s).cfg = s.cfg := rfl
@[simp] theorem respond_coef : (respond p ws s).coef = s.coef := rfl
@[simp] theorem respond_dly : (respond p ws s).dly = s.dly := rfl
@[simp] theorem respond_pbyp : (respond p ws s).pbyp = s.pbyp := rfl
@[simp] theorem respond_sbyp : (respond p ws s).sbyp = s.sbyp := rfl
@[simp] theorem respond_slope : (respond p ws s).slope = s.slope := rfl
@[simp] theorem respond_prepared : (respond p ws s).prepared = s.prepared := rfl
@[simp] theorem respond_srate : (respond p ws s).srate = s.srate := rfl
@[simp] theorem respond_maxblk : (respond p ws s).maxblk = s.maxblk := rfl
@[simp] theorem respond_acc : (respond p ws s).acc = s.acc := rfl
@[simp] theorem respond_queue : (respond p ws s).queue = s.queue := rfl
@[simp] theorem respond_roll : (respond p ws s).roll = s.roll := rfl
@[simp] theorem respond_fq : (respond p ws s).fq = s.fq := rfl
@[simp] theorem respond_curframe : (respond p ws s).curframe = s.curframe := rfl
@[simp] theorem respond_curpath : (respond p ws s).curpath = s.curpath := rfl
@[simp] theorem respond_anen : (respond p ws s).anen = s.anen := rfl
@[simp] theorem respond_floor : (respond p ws s).floor = s.floor := rfl
@[simp] theorem respond_dirty : (respond p ws s).dirty = s.dirty := rfl
@[simp] theorem respond_fstat : (respond p ws s).fstat = s.fstat := rfl
@[simp] theorem respond_procRun : (respond p ws s).procRun = s.procRun := rfl
@[simp] theorem respond_tickRun : (respond p ws s).tickRun = s.tickRun := rfl
@[simp] theorem respond_sched : (respond p ws s).sched = s.sched := rfl

end

section
variable (p : PortId) (k : FaultCode)

@[simp] theorem takeFault_cfg : (takeFault p k s).cfg = s.cfg := rfl
@[simp] theorem takeFault_coef : (takeFault p k s).coef = s.coef := rfl
@[simp] theorem takeFault_dly : (takeFault p k s).dly = s.dly := rfl
@[simp] theorem takeFault_pbyp : (takeFault p k s).pbyp = s.pbyp := rfl
@[simp] theorem takeFault_sbyp : (takeFault p k s).sbyp = s.sbyp := rfl
@[simp] theorem takeFault_slope : (takeFault p k s).slope = s.slope := rfl
@[simp] theorem takeFault_prepared : (takeFault p k s).prepared = s.prepared := rfl
@[simp] theorem takeFault_srate : (takeFault p k s).srate = s.srate := rfl
@[simp] theorem takeFault_maxblk : (takeFault p k s).maxblk = s.maxblk := rfl
@[simp] theorem takeFault_acc : (takeFault p k s).acc = s.acc := rfl
@[simp] theorem takeFault_queue : (takeFault p k s).queue = s.queue := rfl
@[simp] theorem takeFault_roll : (takeFault p k s).roll = s.roll := rfl
@[simp] theorem takeFault_fq : (takeFault p k s).fq = s.fq := rfl
@[simp] theorem takeFault_curframe : (takeFault p k s).curframe = s.curframe := rfl
@[simp] theorem takeFault_curpath : (takeFault p k s).curpath = s.curpath := rfl
@[simp] theorem takeFault_anen : (takeFault p k s).anen = s.anen := rfl
@[simp] theorem takeFault_floor : (takeFault p k s).floor = s.floor := rfl
@[simp] theorem takeFault_dirty : (takeFault p k s).dirty = s.dirty := rfl
@[simp] theorem takeFault_procRun : (takeFault p k s).procRun = s.procRun := rfl
@[simp] theorem takeFault_tickRun : (takeFault p k s).tickRun = s.tickRun := rfl
@[simp] theorem takeFault_sched : (takeFault p k s).sched = s.sched := rfl
@[simp] theorem takeFault_fstat : (takeFault p k s).fstat = s.fstat.set p (faultSet k (s.fstat.get p)) := rfl

end

section
variable (p : PortId) (w : Word)

@[simp] theorem clearFaults_cfg : (clearFaults p w s).cfg = s.cfg := rfl
@[simp] theorem clearFaults_coef : (clearFaults p w s).coef = s.coef := rfl
@[simp] theorem clearFaults_dly : (clearFaults p w s).dly = s.dly := rfl
@[simp] theorem clearFaults_pbyp : (clearFaults p w s).pbyp = s.pbyp := rfl
@[simp] theorem clearFaults_sbyp : (clearFaults p w s).sbyp = s.sbyp := rfl
@[simp] theorem clearFaults_slope : (clearFaults p w s).slope = s.slope := rfl
@[simp] theorem clearFaults_prepared : (clearFaults p w s).prepared = s.prepared := rfl
@[simp] theorem clearFaults_srate : (clearFaults p w s).srate = s.srate := rfl
@[simp] theorem clearFaults_maxblk : (clearFaults p w s).maxblk = s.maxblk := rfl
@[simp] theorem clearFaults_acc : (clearFaults p w s).acc = s.acc := rfl
@[simp] theorem clearFaults_queue : (clearFaults p w s).queue = s.queue := rfl
@[simp] theorem clearFaults_roll : (clearFaults p w s).roll = s.roll := rfl
@[simp] theorem clearFaults_fq : (clearFaults p w s).fq = s.fq := rfl
@[simp] theorem clearFaults_curframe : (clearFaults p w s).curframe = s.curframe := rfl
@[simp] theorem clearFaults_curpath : (clearFaults p w s).curpath = s.curpath := rfl
@[simp] theorem clearFaults_anen : (clearFaults p w s).anen = s.anen := rfl
@[simp] theorem clearFaults_floor : (clearFaults p w s).floor = s.floor := rfl
@[simp] theorem clearFaults_dirty : (clearFaults p w s).dirty = s.dirty := rfl
@[simp] theorem clearFaults_io : (clearFaults p w s).io = s.io := rfl
@[simp] theorem clearFaults_procRun : (clearFaults p w s).procRun = s.procRun := rfl
@[simp] theorem clearFaults_tickRun : (clearFaults p w s).tickRun = s.tickRun := rfl
@[simp] theorem clearFaults_sched : (clearFaults p w s).sched = s.sched := rfl
@[simp] theorem clearFaults_fstat : (clearFaults p w s).fstat = s.fstat.set p (faultClear w (s.fstat.get p)) := rfl

end

section
variable (c : Chan) (v : F32)

@[simp] theorem qPush_cfg : (qPush c v s).cfg = s.cfg := rfl
@[simp] theorem qPush_coef : (qPush c v s).coef = s.coef := rfl
@[simp] theorem qPush_dly : (qPush c v s).dly = s.dly := rfl
@[simp] theorem qPush_pbyp : (qPush c v s).pbyp = s.pbyp := rfl
@[simp] theorem qPush_sbyp : (qPush c v s).sbyp = s.sbyp := rfl
@[simp] theorem qPush_slope : (qPush c v s).slope = s.slope := rfl
@[simp] theorem qPush_prepared : (qPush c v s).prepared = s.prepared := rfl
@[simp] theorem qPush_srate : (qPush c v s).srate = s.srate := rfl
@[simp] theorem qPush_maxblk : (qPush c v s).maxblk = s.maxblk := rfl
@[simp] theorem qPush_roll : (qPush c v s).roll = s.roll := rfl
@[simp] theorem qPush_fq : (qPush c v s).fq = s.fq := rfl
@[simp] theorem qPush_curframe : (qPush c v s).curframe = s.curframe := rfl
@[simp] theorem qPush_curpath : (qPush c v s).curpath = s.curpath := rfl
@[simp] theorem qPush_anen : (qPush c v s).anen = s.anen := rfl
@[simp] theorem qPush_floor : (qPush c v s).floor = s.floor := rfl
@[simp] theorem qPush_dirty : (qPush c v s).dirty = s.dirty := rfl
@[simp] theorem qPush_fstat : (qPush c v s).fstat = s.fstat := rfl
@[simp] theorem qPush_io : (qPush c v s).io = s.io := rfl
@[simp] theorem qPush_procRun : (qPush c v s).procRun = s.procRun := rfl
@[simp] theorem qPush_tickRun : (qPush c v s).tickRun = s.tickRun := rfl
@[simp] theorem qPush_sched : (qPush c v s).sched = s.sched := rfl

end

section
variable (c : Chan) (blk : List F32)

@[simp] theorem rollShift_cfg : (rollShift c blk s).cfg = s.cfg := rfl
@[simp] theorem rollShift_coef : (rollShift c blk s).coef = s.coef := rfl
@[simp] theorem rollShift_dly : (rollShift c blk s).dly = s.dly := rfl
@[simp] theorem rollShift_pbyp : (rollShift c blk s).pbyp = s.pbyp := rfl
@[simp] theorem rollShift_sbyp : (rollShift c blk s).sbyp = s.sbyp := rfl
@[simp] theorem rollShift_slope : (rollShift c blk s).slope = s.slope := rfl
@[simp] theorem rollShift_prepared : (rollShift c blk s).prepared = s.prepared := rfl
@[simp] theorem rollShift_srate : (rollShift c blk s).srate = s.srate := rfl
@[simp] theorem rollShift_maxblk : (rollShift c blk s).maxblk = s.maxblk := rfl
@[simp] theorem rollShift_acc : (rollShift c blk s).acc = s.acc := rfl
@[simp] theorem rollShift_queue : (rollShift c blk s).queue = s.queue := rfl
@[simp] theorem rollShift_fq : (rollShift c blk s).fq = s.fq := rfl
@[simp] theorem rollShift_curframe : (rollShift c blk s).curframe = s.curframe := rfl
@[simp] theorem rollShift_curpath : (rollShift c blk s).curpath = s.curpath := rfl
@[simp] theorem rollShift_anen : (rollShift c blk s).anen = s.anen := rfl
@[simp] theorem rollShift_floor : (rollShift c blk s).floor = s.floor := rfl
@[simp] theorem rollShift_dirty : (rollShift c blk s).dirty = s.dirty := rfl
@[simp] theorem rollShift_fstat : (rollShift c blk s).fstat = s.fstat := rfl
@[simp] theorem rollShift_io : (rollShift c blk s).io = s.io := rfl
@[simp] theorem rollShift_procRun : (rollShift c blk s).procRun = s.procRun := rfl
@[simp] theorem rollShift_tickRun : (rollShift c blk s).tickRun = s.tickRun := rfl
@[simp] theorem rollShift_sched : (rollShift c blk s).sched = s.sched := rfl
@[simp] theorem rollShift_roll : (rollShift c blk s).roll = s.roll.set c ((s.roll.get c).drop blk.length ++ blk) := rfl

end

section
variable (c : Chan) (x : F32)

@[simp] theorem filterStep_cfg : ((filterStep c x s).2).cfg = s.cfg := rfl
@[simp] theorem filterStep_coef : ((filterStep c x s).2).coef = s.coef := rfl
@[simp] theorem filterStep_pbyp : ((filterStep c x s).2).pbyp = s.pbyp := rfl
@[simp] theorem filterStep_sbyp : ((filterStep c x s).2).sbyp = s.sbyp := rfl
@[simp] theorem filterStep_slope : ((filterStep c x s).2).slope = s.slope := rfl
@[simp] theorem filterStep_prepared : ((filterStep c x s).2).prepared = s.prepared := rfl
@[simp] theorem filterStep_srate : ((filterStep c x s).2).srate = s.srate := rfl
@[simp] theorem filterStep_maxblk : ((filterStep c x s).2).maxblk = s.maxblk := rfl
@[simp] theorem filterStep_acc : ((filterStep c x s).2).acc = s.acc := rfl
@[simp] theorem filterStep_queue : ((filterStep c x s).2).queue = s.queue := rfl
@[simp] theorem filterStep_roll : ((filterStep c x s).2).roll = s.roll := rfl
@[simp] theorem filterStep_fq : ((filterStep c x s).2).fq = s.fq := rfl
@[simp] theorem filterStep_curframe : ((filterStep c x s).2).curframe = s.curframe := rfl
@[simp] theorem filterStep_curpath : ((filterStep c x s).2).curpath = s.curpath := rfl
@[simp] theorem filterStep_anen : ((filterStep c x s).2).anen = s.anen := rfl
@[simp] theorem filterStep_floor : ((filterStep c x s).2).floor = s.floor := rfl
@[simp] theorem filterStep_dirty : ((filterStep c x s).2).dirty = s.dirty := rfl
@[simp] theorem filterStep_fstat : ((filterStep c x s).2).fstat = s.fstat := rfl
@[simp] theorem filterStep_io : ((filterStep c x s).2).io = s.io := rfl
@[simp] theorem filterStep_procRun : ((filterStep c x s).2).procRun = s.procRun := rfl
@[simp] theorem filterStep_tickRun : ((filterStep c x s).2).tickRun = s.tickRun := rfl
@[simp] theorem filterStep_sched : ((filterStep c x s).2).sched = s.sched := rfl
theorem filterStep_dly : (filterStep c x s).2.dly = s.dly.set c (chainStep s.num s.settings (s.dly.get c) x).2 := rfl
theorem filterStep_out : (filterStep c x s).1 = (chainStep s.num s.settings (s.dly.get c) x).1 := rfl

end

section
variable (c : Chan) (x : F32)

@[simp] theorem procSample_cfg : ((procSample c x s).2).cfg = s.cfg := rfl
@[simp] theorem procSample_coef : ((procSample c x s).2).coef = s.coef := rfl
@[simp] theorem procSample_pbyp : ((procSample c x s).2).pbyp = s.pbyp := rfl
@[simp] theorem procSample_sbyp : ((procSample c x s).2).sbyp = s.sbyp := rfl
@[simp] theorem procSample_slope : ((procSample c x s).2).slope = s.slope := rfl
@[simp] theorem procSample_prepared : ((procSample c x s).2).prepared = s.prepared := rfl
@[simp] theorem procSample_srate : ((procSample c x s).2).srate = s.srate := rfl
@[simp] theorem procSample_maxblk : ((procSample c x s).2).maxblk = s.maxblk := rfl
@[simp] theorem procSample_roll : ((procSample c x s).2).roll = s.roll := rfl
@[simp] theorem procSample_fq : ((procSample c x s).2).fq = s.fq := rfl
@[simp] theorem procSample_curframe : ((procSample c x s).2).curframe = s.curframe := rfl
@[simp] theorem procSample_curpath : ((procSample c x s).2).curpath = s.curpath := rfl
@[simp] theorem procSample_anen : ((procSample c x s).2).anen = s.anen := rfl
@[simp] theorem procSample_floor : ((procSample c x s).2).floor = s.floor := rfl
@[simp] theorem procSample_dirty : ((procSample c x s).2).dirty = s.dirty := rfl
@[simp] theorem procSample_fstat : ((procSample c x s).2).fstat = s.fstat := rfl
@[simp] theorem procSample_io : ((procSample c x s).2).io = s.io := rfl
@[simp] theorem procSample_procRun : ((procSample c x s).2).procRun = s.procRun := rfl
@[simp] theorem procSample_tickRun : ((procSample c x s).2).tickRun = s.tickRun := rfl
@[simp] theorem procSample_sched : ((procSample c x s).2).sched = s.sched := rfl

end

section
variable (c : Chan)

@[simp] theorem fftStep_cfg : (fftStep c s).cfg = s.cfg := rfl
@[simp] theorem fftStep_coef : (fftStep c s).coef = s.coef := rfl
@[simp] theorem fftStep_dly : (fftStep c s).dly = s.dly := rfl
@[simp] theorem fftStep_pbyp : (fftStep c s).pbyp = s.pbyp := rfl
@[simp] theorem fftStep_sbyp : (fftStep c s).sbyp = s.sbyp := rfl
@[simp] theorem fftStep_slope : (fftStep c s).slope = s.slope := rfl
@[simp] theorem fftStep_prepared : (fftStep c s).prepared = s.prepared := rfl
@[simp] theorem fftStep_srate : (fftStep c s).srate = s.srate := rfl
@[simp] theorem fftStep_maxblk : (fftStep c s).maxblk = s.maxblk := rfl
@[simp] theorem fftStep_acc : (fftStep c s).acc = s.acc := rfl
@[simp] theorem fftStep_queue : (fftStep c s).queue = s.queue := rfl
@[simp] theorem fftStep_roll : (fftStep c s).roll = s.roll := rfl
@[simp] theorem fftStep_curframe : (fftStep c s).curframe = s.curframe := rfl
@[simp] theorem fftStep_curpath : (fftStep c s).curpath = s.curpath := rfl
@[simp] theorem fftStep_anen : (fftStep c s).anen = s.anen := rfl
@[simp] theorem fftStep_floor : (fftStep c s).floor = s.floor := rfl
@[simp] theorem fftStep_dirty : (fftStep c s).dirty = s.dirty := rfl
@[simp] theorem fftStep_fstat : (fftStep c s).fstat = s.fstat := rfl
@[simp] theorem fftStep_io : (fftStep c s).io = s.io := rfl
@[simp] theorem fftStep_procRun : (fftStep c s).procRun = s.procRun := rfl
@[simp] theorem fftStep_tickRun : (fftStep c s).tickRun = s.tickRun := rfl
@[simp] theorem fftStep_sched : (fftStep c s).sched = s.sched := rfl

end

section
variable (sr : F32) (mb : Nat)

@[simp] theorem startSession_cfg : (startSession sr mb s).cfg = s.cfg := rfl
@[simp] theorem startSession_coef : (startSession sr mb s).coef = s.coef := rfl
@[simp] theorem startSession_pbyp : (startSession sr mb s).pbyp = s.pbyp := rfl
@[simp] theorem startSession_sbyp : (startSession sr mb s).sbyp = s.sbyp := rfl
@[simp] theorem startSession_slope : (startSession sr mb s).slope = s.slope := rfl
@[simp] theorem startSession_anen : (startSession sr mb s).anen = s.anen := rfl
@[simp] theorem startSession_floor : (startSession sr mb s).floor = s.floor := rfl
@[simp] theorem startSession_dirty : (startSession sr mb s).dirty = s.dirty := rfl
@[simp] theorem startSession_fstat : (startSession sr mb s).fstat = s.fstat := rfl
@[simp] theorem startSession_io : (startSession sr mb s).io = s.io := rfl
@[simp] theorem startSession_procRun : (startSession sr mb s).procRun = s.procRun := rfl
@[simp] theorem startSession_tickRun : (startSession sr mb s).tickRun = s.tickRun := rfl
@[simp] theorem startSession_sched : (startSession sr mb s).sched = s.sched := rfl
@[simp] theorem startSession_srate : (startSession sr mb s).srate = sr := rfl
@[simp] theorem startSession_maxblk : (startSession sr mb s).maxblk = mb := rfl
@[simp] theorem startSession_prepared : (startSession sr mb s).prepared = true := rfl
@[simp] theorem startSession_dly : (startSession sr mb s).dly = .all (.all .zero) := rfl
@[simp] theorem startSession_acc : (startSession sr mb s).acc = .all [] := rfl
@[simp] theorem startSession_queue : (startSession sr mb s).queue = .all [] := rfl
@[simp] theorem startSession_roll : (startSession sr mb s).roll = .all (List.replicate s.cfg.n F32.zero) := rfl
@[simp] theorem startSession_fq : (startSession sr mb s).fq = .all [] := rfl
@[simp] theorem startSession_curframe : (startSession sr mb s).curframe = .all none := rfl
@[simp] theorem startSession_curpath : (startSession sr mb s).curpath = .all [] := rfl

end

section

@[simp] theorem paramChanged_cfg : (paramChanged s).cfg = s.cfg := rfl
@[simp] theorem paramChanged_coef : (paramChanged s).coef = s.coef := rfl
@[simp] theorem paramChanged_dly : (paramChanged s).dly = s.dly := rfl
@[simp] theorem paramChanged_pbyp : (paramChanged s).pbyp = s.pbyp := rfl
@[simp] theorem paramChanged_sbyp : (paramChanged s).sbyp = s.sbyp := rfl
@[simp] theorem paramChanged_slope : (paramChanged s).slope = s.slope := rfl
@[simp] theorem paramChanged_prepared : (paramChanged s).prepared = s.prepared := rfl
@[simp] theorem paramChanged_srate : (paramChanged s).srate = s.srate := rfl
@[simp] theorem paramChanged_maxblk : (paramChanged s).maxblk = s.maxblk := rfl
@[simp] theorem paramChanged_acc : (paramChanged s).acc = s.acc := rfl
@[simp] theorem paramChanged_queue : (paramChanged s).queue = s.queue := rfl
@[simp] theorem paramChanged_roll : (paramChanged s).roll = s.roll := rfl
@[simp] theorem paramChanged_fq : (paramChanged s).fq = s.fq := rfl
@[simp] theorem paramChanged_curframe : (paramChanged s).curframe = s.curframe := rfl
@[simp] theorem paramChanged_curpath : (paramChanged s).curpath = s.curpath := rfl
@[simp] theorem paramChanged_anen : (paramChanged s).anen = s.anen := rfl
@[simp] theorem paramChanged_floor : (paramChanged s).floor = s.floor := rfl
@[simp] theorem paramChanged_fstat : (paramChanged s).fstat = s.fstat := rfl
@[simp] theorem paramChanged_io : (paramChanged s).io = s.io := rfl
@[simp] theorem paramChanged_procRun : (paramChanged s).procRun = s.procRun := rfl
@[simp] theorem paramChanged_tickRun : (paramChanged s).tickRun = s.tickRun := rfl
@[simp] theorem paramChanged_sched : (paramChanged s).sched = s.sched := rfl
@[simp] theorem paramChanged_dirty : (paramChanged s).dirty = true := rfl

end

section
variable (p : PortId)

@[simp] theorem takeWord_cfg : (takeWord p s).cfg = s.cfg := rfl
@[simp] theorem takeWord_coef : (takeWord p s).coef = s.coef := rfl
@[simp] theorem takeWord_dly : (takeWord p s).dly = s.dly := rfl
@[simp] theorem takeWord_pbyp : (takeWord p s).pbyp = s.pbyp := rfl
@[simp] theorem takeWord_sbyp : (takeWord p s).sbyp = s.sbyp := rfl
@[simp] theorem takeWord_slope : (takeWord p s).slope = s.slope := rfl
@[simp] theorem takeWord_prepared : (takeWord p s).prepared = s.prepared := rfl
@[simp] theorem takeWord_srate : (takeWord p s).srate = s.srate := rfl
@[simp] theorem takeWord_maxblk : (takeWord p s).maxblk = s.maxblk := rfl
@[simp] theorem takeWord_acc : (takeWord p s).acc = s.acc := rfl
@[simp] theorem takeWord_queue : (takeWord p s).queue = s.queue := rfl
@[simp] theorem takeWord_roll : (takeWord p s).roll = s.roll := rfl
@[simp] theorem takeWord_fq : (takeWord p s).fq = s.fq := rfl
@[simp] theorem takeWord_curframe : (takeWord p s).curframe = s.curframe := rfl
@[simp] theorem takeWord_curpath : (takeWord p s).curpath = s.curpath := rfl
@[simp] theorem takeWord_anen : (takeWord p s).anen = s.anen := rfl
@[simp] theorem takeWord_floor : (takeWord p s).floor = s.floor := rfl
@[simp] theorem takeWord_dirty : (takeWord p s).dirty = s.dirty := rfl
@[simp] theorem takeWord_fstat : (takeWord p s).fstat = s.fstat := rfl
@[simp] theorem takeWord_procRun : (takeWord p s).procRun = s.procRun := rfl
@[simp] theorem takeWord_tickRun : (takeWord p s).tickRun = s.tickRun := rfl
@[simp] theorem takeWord_sched : (takeWord p s).sched = s.sched := rfl

end

end Sys2Proof.Machine
end

