-- ==== Sys2Proof/Laws/Tables.lean ====
section
/-! SUPPORT. Reading an indexed piece of state after writing it: the same index gives what was
written, every other index what was there. -/

namespace Sys2Proof.Machine

variable {α : Type}

@[simp] theorem Chans.get_set_same (x : Chans α) (c : Chan) (y : α) : (x.set c y).get c = y := by
  cases c <;> rfl

theorem Chans.get_set_ne (x : Chans α) {c d : Chan} (y : α) (h : d ≠ c) :
    (x.set c y).get d = x.get d := by
  cases c <;> cases d <;> first | rfl | exact absurd rfl h

@[simp] theorem Chans.get_all (y : α) (c : Chan) : (Chans.all y).get c = y := by cases c <;> rfl

@[simp] theorem Chans.set_get_self (x : Chans α) (c : Chan) : x.set c (x.get c) = x := by
  cases c <;> rfl

@[simp] theorem Chans.set_set_same (x : Chans α) (c : Chan) (y z : α) :
    (x.set c y).set c z = x.set c z := by cases c <;> rfl

theorem Chans.ext_get {x y : Chans α} (h : ∀ c, x.get c = y.get c) : x = y := by
  have hl := h .l
  have hr := h .r
  cases x
  cases y
  simp_all [Chans.get]

@[simp] theorem Ports.get_set_same (x : Ports α) (p : PortId) (y : α) : (x.set p y).get p = y := by
  cases p <;> rfl

theorem Ports.get_set_ne (x : Ports α) {p q : PortId} (y : α) (h : q ≠ p) :
    (x.set p y).get q = x.get q := by
  cases p <;> cases q <;> first | rfl | exact absurd rfl h

@[simp] theorem Ports.set_get_self (x : Ports α) (p : PortId) : x.set p (x.get p) = x := by
  cases p <;> rfl

@[simp] theorem Ports.set_set_same (x : Ports α) (p : PortId) (y z : α) :
    (x.set p y).set p z = x.set p z := by cases p <;> rfl

@[simp] theorem Cuts.get_set_same (x : Cuts α) (c : Cut) (y : α) : (x.set c y).get c = y := by
  cases c <;> rfl

theorem Cuts.get_set_ne (x : Cuts α) {c d : Cut} (y : α) (h : d ≠ c) :
    (x.set c y).get d = x.get d := by
  cases c <;> cases d <;> first | rfl | exact absurd rfl h

@[simp] theorem Secs.get_set_same (x : Secs α) (k : Sec) (y : α) : (x.set k y).get k = y := by
  cases k <;> rfl

theorem Secs.get_set_ne (x : Secs α) {k j : Sec} (y : α) (h : j ≠ k) :
    (x.set k y).get j = x.get j := by
  cases k <;> cases j <;> first | rfl | exact absurd rfl h

@[simp] theorem Secs.get_all (y : α) (k : Sec) : (Secs.all y).get k = y := by cases k <;> rfl

@[simp] theorem Poss.get_set_same (x : Poss α) (p : Pos) (y : α) : (x.set p y).get p = y := by
  rcases p with c | k
  · cases c <;> rfl
  · cases k <;> rfl

theorem Poss.get_set_ne (x : Poss α) {p q : Pos} (y : α) (h : q ≠ p) :
    (x.set p y).get q = x.get q := by
  rcases p with c | k <;> rcases q with d | j
  · cases c <;> cases d <;> first | rfl | exact absurd rfl h
  · cases c <;> cases j <;> rfl
  · cases k <;> cases d <;> rfl
  · cases k <;> cases j <;> first | rfl | exact absurd rfl h

@[simp] theorem Bank.get_set_same (x : Bank α) (st : Stage) (y : α) : (x.set st y).get st = y := by
  rcases st with ⟨c, k⟩ | k
  · cases c <;> simp [Bank.get, Bank.set]
  · cases k <;> rfl

theorem Bank.get_set_ne (x : Bank α) {st tt : Stage} (y : α) (h : tt ≠ st) :
    (x.set st y).get tt = x.get tt := by
  rcases st with ⟨c, k⟩ | k <;> rcases tt with ⟨d, j⟩ | j
  · cases c <;> cases d <;> simp only [Bank.get, Bank.set]
    · exact Secs.get_set_ne _ _ fun e => h (by rw [e])
    · exact Secs.get_set_ne _ _ fun e => h (by rw [e])
  · cases c <;> cases j <;> rfl
  · cases k <;> cases d <;> rfl
  · cases k <;> cases j <;> first | rfl | exact absurd rfl h

@[simp] theorem Bank.get_all (y : α) (st : Stage) : (Bank.all y).get st = y := by
  rcases st with ⟨c, k⟩ | k
  · cases c <;> simp [Bank.get, Bank.all]
  · cases k <;> rfl

end Sys2Proof.Machine
end

