-- ==== Sys2Proof/Laws/Ops.lean ====
section
/-! SUPPORT. For each shared operation one lemma that says once everything it can do, for proofs to
cite instead of unfolding it. -/

namespace Sys2Proof.Machine

@[simp] theorem rspPacket_nil (e : Bool) : rspPacket e [] = [] := rfl

theorem rspPacket_length (e : Bool) (ws : List Word) : (rspPacket e ws).length = ws.length := by
  induction ws with
  | nil => rfl
  | cons w ws ih =>
    cases ws with
    | nil => rfl
    | cons v vs => simp_all [rspPacket]

theorem rspPacket_data (e : Bool) (ws : List Word) : (rspPacket e ws).map (·.data) = ws := by
  induction ws with
  | nil => rfl
  | cons w ws ih =>
    cases ws with
    | nil => rfl
    | cons v vs => simp_all [rspPacket]

theorem rspPacket_err (e : Bool) (ws : List Word) : ∀ b ∈ rspPacket e ws, b.err = e := by
  induction ws with
  | nil => simp
  | cons w ws ih =>
    cases ws with
    | nil => simp [rspPacket]
    | cons v vs =>
      intro b hb
      simp only [rspPacket, List.mem_cons] at hb
      rcases hb with rfl | hb
      · rfl
      · exact ih b (by simpa [rspPacket] using hb)

/-- A packet emitted on one port leaves the other as it was. -/
theorem emit_io_other (p q : PortId) (e : Bool) (ws : List Word) (s : State) (h : q ≠ p) :
    (emit p e ws s).io.get q = s.io.get q := Ports.get_set_ne _ _ h

/-- An empty packet is no packet. -/
@[simp] theorem emit_nil (p : PortId) (e : Bool) (s : State) : emit p e [] s = s := by
  simp only [emit, rspPacket_nil, List.append_nil]
  cases p <;> rfl

/-- What a push does to the accumulator of its channel (R193). -/
theorem qPush_acc (c : Chan) (v : F32) (s : State) :
    (qPush c v s).acc.get c =
      if (s.acc.get c).length + 1 = s.maxblk then [] else s.acc.get c ++ [v] := by
  simp [qPush]

/-- What a push does to the queue of its channel (R193). -/
theorem qPush_queue (c : Chan) (v : F32) (s : State) :
    (qPush c v s).queue.get c =
      if (s.acc.get c).length + 1 = s.maxblk ∧ (s.queue.get c).length < s.cfg.qcap then
        s.queue.get c ++ [s.acc.get c ++ [v]]
      else s.queue.get c := by
  simp [qPush]

/-- A push leaves the other channel as it was. -/
theorem qPush_other (c d : Chan) (v : F32) (s : State) (h : d ≠ c) :
    (qPush c v s).acc.get d = s.acc.get d ∧ (qPush c v s).queue.get d = s.queue.get d :=
  ⟨Chans.get_set_ne _ _ h, Chans.get_set_ne _ _ h⟩

/-- A pull answers the oldest block exactly when there is one (R196). -/
theorem qPull_eq_some {c : Chan} {s t : State} {blk : List F32} :
    qPull c s = some (blk, t) ↔
      ∃ rest, s.queue.get c = blk :: rest ∧ t = { s with queue := s.queue.set c rest } := by
  unfold qPull
  split
  · next h => simp [h]
  · next b r h =>
    rw [h]
    constructor
    · intro e
      simp only [Option.some.injEq, Prod.mk.injEq] at e
      exact ⟨r, by rw [e.1], e.2.symm⟩
    · rintro ⟨rest, e, rfl⟩
      simp only [List.cons.injEq] at e
      simp [e.1, e.2]

/-- Everything a pull step can do (R213, R214): take the oldest block into the rolling buffer. -/
theorem pullStep_eq_some {c : Chan} {s t : State} :
    pullStep c s = some t ↔
      ∃ blk rest, s.queue.get c = blk :: rest ∧
        t = { s with
          queue := s.queue.set c rest
          roll := s.roll.set c ((s.roll.get c).drop blk.length ++ blk) } := by
  unfold pullStep qPull
  split
  · next h =>
    split at h
    · next e => simp [e]
    · simp at h
  · next b u h =>
    split at h
    · simp at h
    · next blk rest e =>
      simp only [Option.some.injEq, Prod.mk.injEq] at h
      obtain ⟨rfl, rfl⟩ := h
      rw [e]
      constructor
      · intro ht
        simp only [Option.some.injEq] at ht
        exact ⟨_, _, rfl, ht.symm⟩
      · rintro ⟨blk', rest', e', rfl⟩
        simp only [List.cons.injEq] at e'
        obtain ⟨rfl, rfl⟩ := e'
        rfl

/-- A pull step finds nothing exactly on an empty queue (R196). -/
theorem pullStep_eq_none {c : Chan} {s : State} :
    pullStep c s = none ↔ s.queue.get c = [] := by
  unfold pullStep qPull
  cases h : s.queue.get c <;> simp

/-- The path step with no pending frame changes nothing (R234). -/
theorem pathStep_of_empty {c : Chan} {b : Bounds} {s : State} (h : s.fq.get c = []) :
    pathStep c b s = s := by
  simp [pathStep, h]

/-- The path step with a pending frame shows the newest and drops the others (R234, R235). -/
theorem pathStep_of_last {c : Chan} {b : Bounds} {s : State} {frame : List F32}
    (h : (s.fq.get c).getLast? = some frame) :
    pathStep c b s =
      { s with
        fq := s.fq.set c []
        curframe := s.curframe.set c (some frame)
        curpath := s.curpath.set c (makePath s.cfg s.srate s.floor b frame) } := by
  simp [pathStep, h]

/-- What a path step may change: the frame queue, the current frame and the current path. -/
theorem pathStep_frame (c : Chan) (b : Bounds) (s : State) :
    pathStep c b s =
      { s with
        fq := (pathStep c b s).fq
        curframe := (pathStep c b s).curframe
        curpath := (pathStep c b s).curpath } := by
  unfold pathStep
  split <;> rfl

/-- What the pulls of a TICK may change: the queues, the rolling buffers and the frame queues. -/
theorem tickPulls_frame (c : Chan) (fuel : Nat) (s : State) :
    tickPulls c fuel s =
      { s with
        queue := (tickPulls c fuel s).queue
        roll := (tickPulls c fuel s).roll
        fq := (tickPulls c fuel s).fq } := by
  induction fuel generalizing s with
  | zero => rfl
  | succ fuel ih =>
    unfold tickPulls
    split
    · rfl
    · next t h =>
      obtain ⟨blk, rest, _, rfl⟩ := pullStep_eq_some.mp h
      rw [ih]
      rfl

/-- What a channel of PROC may change: the delay records, the accumulators and the queues. -/
theorem procChannel_frame (c : Chan) (xs : List F32) (s : State) :
    (procChannel c xs s).2 =
      { s with
        dly := (procChannel c xs s).2.dly
        acc := (procChannel c xs s).2.acc
        queue := (procChannel c xs s).2.queue } := by
  induction xs generalizing s with
  | nil => rfl
  | cons x xs ih =>
    simp only [procChannel]
    rw [ih]
    rfl

/-- What the channels of PROC may change: the delay records, the accumulators and the queues. -/
theorem procChannels_frame (n : Nat) (payload : List F32) (cs : List Chan) (s : State) :
    (procChannels n payload cs s).2 =
      { s with
        dly := (procChannels n payload cs s).2.dly
        acc := (procChannels n payload cs s).2.acc
        queue := (procChannels n payload cs s).2.queue } := by
  induction cs generalizing s with
  | nil => rfl
  | cons c cs ih =>
    simp only [procChannels]
    rw [ih, procChannel_frame]

/-- A channel of PROC answers one output for each sample (R133). -/
theorem procChannel_length (c : Chan) (xs : List F32) (s : State) :
    (procChannel c xs s).1.length = xs.length := by
  induction xs generalizing s with
  | nil => rfl
  | cons x xs ih => simp [procChannel, ih]

/-- Everything a CSR write can do (R258). -/
theorem csrWrite_cases (p : PortId) (r : Csr) (w : Word) (s : State) :
    (r = .fclr ∧ csrWrite p r w s = .done (clearFaults p w s)) ∨
    (p = .v ∧ r = .ctrl ∧ csrWrite p r w s = .done { s with anen := w.getLsbD 0 }) ∨
    (p = .v ∧ r = .floor ∧ legalFloor w = true ∧ csrWrite p r w s = .done { s with floor := w }) ∨
    (p = .v ∧ r = .floor ∧ legalFloor w = false ∧ csrWrite p r w s = .refused .range) ∨
    (r.writable p = false ∧ csrWrite p r w s = .refused .field) := by
  cases p <;> cases r <;> simp [csrWrite, Csr.writable]

/-- Everything serving a port can do (R73, R100): nothing, run the decoded command, or take the
fault of a packet that does not decode. -/
theorem serve_cases (run : Instr → State → Out State) (p : PortId) (s : State) :
    serve run p s = .next s ∨
    (∃ packet s' i, busy p s = false ∧ fetch p s = some (packet, s') ∧
      decode p packet = .ok i ∧ serve run p s = run i s') ∨
    (∃ packet s' k, busy p s = false ∧ fetch p s = some (packet, s') ∧
      decode p packet = .bad k ∧ serve run p s = .next (takeFault p k s')) := by
  unfold serve
  split
  · exact .inl rfl
  · next hb =>
    have hb : busy p s = false := by simpa using hb
    split
    · exact .inl rfl
    · next packet s' hf =>
      split
      · next i hd => exact .inr (.inl ⟨packet, s', i, hb, hf, hd, rfl⟩)
      · next k hd => exact .inr (.inr ⟨packet, s', k, hb, hf, hd, rfl⟩)

/-- A packet laid out on a stream is taken off it whole (R61, R103). -/
theorem takePacket_packetBeats (ws : List Word) (rest : List CmdBeat) (h : ws ≠ []) :
    takePacket (packetBeats ws ++ rest) = some (ws, rest) := by
  induction ws with
  | nil => exact absurd rfl h
  | cons w ws ih =>
    cases ws with
    | nil => simp [packetBeats, takePacket]
    | cons v vs => simp [packetBeats, takePacket, ih (by simp)]

end Sys2Proof.Machine
end

