-- ==== Sys2Proof/Laws/PerInstr.lean ====
section
/-! SUPPORT. What is proved of every instruction, one lemma for each constructor of `Instr`. -/

open Sys2Proof

/-- The header of a command carries the opcode of a row of the opcode map, and that row is defined
on the port the command belongs to (30_encoding.md R96, 20_memory.md R64). -/
def Sys2Proof.Laws.OpcodePort.Statement (i : Instr) : Prop :=
  ∃ op, Op.ofCode? (fieldOf i.header 31 24) = some op ∧ op.onPort i.port = true

theorem Sys2Proof.Laws.OpcodePort.of_code {i : Instr} (op : Op)
    (hcode : fieldOf i.header 31 24 = op.code) (hport : op.onPort i.port = true) :
    Sys2Proof.Laws.OpcodePort.Statement i :=
  ⟨op, by rw [hcode, Op.ofCode?_code], hport⟩

theorem Sys2Proof.Laws.OpcodePort.nop (port : PortId) :
    Sys2Proof.Laws.OpcodePort.Statement (.nop port) :=
  Sys2Proof.Laws.OpcodePort.of_code .nop
    (headerZ_fields _).1 rfl

theorem Sys2Proof.Laws.OpcodePort.prepare (srate : F32) (maxblk : Word) :
    Sys2Proof.Laws.OpcodePort.Statement (.prepare srate maxblk) :=
  Sys2Proof.Laws.OpcodePort.of_code .prepare
    (headerZ_fields _).1 rfl

theorem Sys2Proof.Laws.OpcodePort.setcoef (st : Stage) (k : Coef) :
    Sys2Proof.Laws.OpcodePort.Statement (.setcoef st k) :=
  Sys2Proof.Laws.OpcodePort.of_code .setcoef
    (headerS_fields _ st.pos.toNat_lt st.sec.toNat_lt (by decide) (by decide)).1 rfl

theorem Sys2Proof.Laws.OpcodePort.setbyp (pos : Pos) (flag : Bool) :
    Sys2Proof.Laws.OpcodePort.Statement (.setbyp pos flag) :=
  Sys2Proof.Laws.OpcodePort.of_code .setbyp
    (headerS_fields _ pos.toNat_lt (by decide) (by decide) flag.toNat_lt).1 rfl

theorem Sys2Proof.Laws.OpcodePort.cutupd (cut : Cut) (slope : Sec) (sets : List Coef) :
    Sys2Proof.Laws.OpcodePort.Statement (.cutupd cut slope sets) :=
  Sys2Proof.Laws.OpcodePort.of_code .cutupd
    (headerS_fields _ (Pos.cut cut).toNat_lt slope.toNat_lt (by decide) (by decide)).1 rfl

theorem Sys2Proof.Laws.OpcodePort.proc (nch : ChanCount) (n : BitVec 16) (payload : List F32) :
    Sys2Proof.Laws.OpcodePort.Statement (.proc nch n payload) :=
  Sys2Proof.Laws.OpcodePort.of_code .proc
    (headerB_fields _ nch.toNat_lt n.isLt).1 rfl

theorem Sys2Proof.Laws.OpcodePort.magq (f : F32) :
    Sys2Proof.Laws.OpcodePort.Statement (.magq f) :=
  Sys2Proof.Laws.OpcodePort.of_code .magq
    (headerZ_fields _).1 rfl

theorem Sys2Proof.Laws.OpcodePort.rdcsr (port : PortId) (reg : Csr) :
    Sys2Proof.Laws.OpcodePort.Statement (.rdcsr port reg) :=
  Sys2Proof.Laws.OpcodePort.of_code .rdcsr
    (headerC_fields _ reg.addr_lt).1 rfl

theorem Sys2Proof.Laws.OpcodePort.wrcsr (port : PortId) (reg : Csr) (value : Word) :
    Sys2Proof.Laws.OpcodePort.Statement (.wrcsr port reg value) :=
  Sys2Proof.Laws.OpcodePort.of_code .wrcsr
    (headerC_fields _ reg.addr_lt).1 rfl

theorem Sys2Proof.Laws.OpcodePort.rdcoef (st : Stage) :
    Sys2Proof.Laws.OpcodePort.Statement (.rdcoef st) :=
  Sys2Proof.Laws.OpcodePort.of_code .rdcoef
    (headerS_fields _ st.pos.toNat_lt st.sec.toNat_lt (by decide) (by decide)).1 rfl

theorem Sys2Proof.Laws.OpcodePort.rddly (st : Stage) (ch : Chan) :
    Sys2Proof.Laws.OpcodePort.Statement (.rddly st ch) :=
  Sys2Proof.Laws.OpcodePort.of_code .rddly
    (headerS_fields _ st.pos.toNat_lt st.sec.toNat_lt ch.toNat_lt (by decide)).1 rfl

theorem Sys2Proof.Laws.OpcodePort.pull (ch : Chan) :
    Sys2Proof.Laws.OpcodePort.Statement (.pull ch) :=
  Sys2Proof.Laws.OpcodePort.of_code .pull
    (headerS_fields _ (by decide) (by decide) ch.toNat_lt (by decide)).1 rfl

theorem Sys2Proof.Laws.OpcodePort.fftrun (ch : Chan) :
    Sys2Proof.Laws.OpcodePort.Statement (.fftrun ch) :=
  Sys2Proof.Laws.OpcodePort.of_code .fftrun
    (headerS_fields _ (by decide) (by decide) ch.toNat_lt (by decide)).1 rfl

theorem Sys2Proof.Laws.OpcodePort.pathgen (ch : Chan) (bounds : Bounds) :
    Sys2Proof.Laws.OpcodePort.Statement (.pathgen ch bounds) :=
  Sys2Proof.Laws.OpcodePort.of_code .pathgen
    (headerS_fields _ (by decide) (by decide) ch.toNat_lt (by decide)).1 rfl

theorem Sys2Proof.Laws.OpcodePort.rdframe (ch : Chan) :
    Sys2Proof.Laws.OpcodePort.Statement (.rdframe ch) :=
  Sys2Proof.Laws.OpcodePort.of_code .rdframe
    (headerS_fields _ (by decide) (by decide) ch.toNat_lt (by decide)).1 rfl

theorem Sys2Proof.Laws.OpcodePort.rdpath (ch : Chan) :
    Sys2Proof.Laws.OpcodePort.Statement (.rdpath ch) :=
  Sys2Proof.Laws.OpcodePort.of_code .rdpath
    (headerS_fields _ (by decide) (by decide) ch.toNat_lt (by decide)).1 rfl

theorem Sys2Proof.Laws.OpcodePort.tick (bounds : Bounds) :
    Sys2Proof.Laws.OpcodePort.Statement (.tick bounds) :=
  Sys2Proof.Laws.OpcodePort.of_code .tick
    (headerZ_fields _).1 rfl

theorem Sys2Proof.Laws.OpcodePort.tcdirty :
    Sys2Proof.Laws.OpcodePort.Statement .tcdirty :=
  Sys2Proof.Laws.OpcodePort.of_code .tcdirty
    (headerZ_fields _).1 rfl
end

