-- ==== Sys2Proof/Laws/Step.lean ====
section
/-! SUPPORT. What one step is, in terms of the event it runs. -/

namespace Sys2Proof.Machine

/-- The step runs the next event, with the agenda that event leaves (20_memory.md R74). -/
theorem step_of_nextEvent {s : State} {e : Event} {es : List Event} (h : nextEvent s = some (e, es)) :
    step s = runEvent e { s with sched := es } := by
  cases s with
  | mk =>
    rename_i sched
    cases sched <;> simp_all [nextEvent, step]

/-- With no next event the block waits, its state unchanged (70_reset_and_hazards.md R303). -/
theorem step_of_nextEvent_none {s : State} (h : nextEvent s = none) : step s = .next s := by
  unfold nextEvent at h
  unfold step
  cases hs : s.sched <;> simp_all

end Sys2Proof.Machine
end

