-- ==== Sys2Proof/Tests/Slice0.lean ====
section
/-! SUPPORT. Tests of the model: what WellFormed refuses, a packet for every command written out
from spec/, one-step tests whose expected values stand in spec/95_test_vectors.md, and for every
obligation with hypotheses a state and operands that meet them all. -/

open Sys2Proof Sys2Proof.Machine

namespace Sys2Proof.Tests

/-! ### WellFormed -/

/-- CUTUPD of slope order 1 needs two sets (41_cut_chain.md R143). -/
theorem test_wellFormed_refuses_cutupd :
    Instr.wellFormed (.cutupd .lc .s1 [identityCoef]) = false := by decide

/-- PROC of two channels of two samples needs four words (95_test_vectors.md V4). -/
theorem test_wellFormed_refuses_proc :
    Instr.wellFormed (.proc .stereo 2#16 [0#32, 0#32, 0#32]) = false := by decide

/-- CTRL is read only on port A, ID on port V (95_test_vectors.md V3). -/
theorem test_wellFormed_refuses_wrcsr :
    Instr.wellFormed (.wrcsr .a .ctrl 0#32) = false ∧ Instr.wellFormed (.wrcsr .v .id 0#32) = false := by
  decide

/-! ### Decoding: headers and what they stand for, 95_test_vectors.md V1 -/

theorem test_decode_nop : decode .a [0x00000000#32] = .ok (.nop .a) := by decide

theorem test_decode_prepare :
    decode .a [0x01000000#32, 0x473B8000#32, 4#32] = .ok (.prepare 0x473B8000#32 4#32) := by decide

theorem test_decode_setcoef :
    decode .a [0x02430000#32, 1#32, 2#32, 3#32, 4#32, 5#32]
      = .ok (.setcoef (.cut .hc .s3) ⟨1#32, 2#32, 3#32, 4#32, 5#32⟩) := by decide

theorem test_decode_setbyp : decode .a [0x03200001#32] = .ok (.setbyp (.peak .pk2) true) := by decide

theorem test_decode_cutupd :
    decode .a [0x04010000#32, 1#32, 2#32, 3#32, 4#32, 5#32, 6#32, 7#32, 8#32, 9#32, 10#32]
      = .ok (.cutupd .lc .s1 [⟨1#32, 2#32, 3#32, 4#32, 5#32⟩, ⟨6#32, 7#32, 8#32, 9#32, 10#32⟩]) := by
  decide

theorem test_decode_proc :
    decode .a [0x05010004#32, 1#32, 2#32, 3#32, 4#32]
      = .ok (.proc .mono 4#16 [1#32, 2#32, 3#32, 4#32]) := by decide

theorem test_decode_proc_of_no_samples :
    decode .a [0x05020000#32] = .ok (.proc .stereo 0#16 []) := by decide

theorem test_decode_magq : decode .a [0x06000000#32, 0x447A0000#32] = .ok (.magq 0x447A0000#32) := by
  decide

theorem test_decode_rdcsr : decode .v [0x07000008#32] = .ok (.rdcsr .v .bypass) := by decide

theorem test_decode_wrcsr : decode .v [0x08000005#32, 0#32] = .ok (.wrcsr .v .ctrl 0#32) := by decide

theorem test_decode_rdcoef : decode .a [0x09420000#32] = .ok (.rdcoef (.cut .hc .s2)) := by decide

theorem test_decode_rddly : decode .a [0x0A100100#32] = .ok (.rddly (.peak .pk1) .r) := by decide

theorem test_decode_pull : decode .v [0x10000100#32] = .ok (.pull .r) := by decide

theorem test_decode_fftrun : decode .v [0x11000000#32] = .ok (.fftrun .l) := by decide

theorem test_decode_pathgen :
    decode .v [0x12000100#32, 1#32, 2#32, 3#32, 4#32]
      = .ok (.pathgen .r ⟨1#32, 2#32, 3#32, 4#32⟩) := by decide

theorem test_decode_rdframe : decode .v [0x13000000#32] = .ok (.rdframe .l) := by decide

theorem test_decode_rdpath : decode .v [0x14000100#32] = .ok (.rdpath .r) := by decide

theorem test_decode_tick :
    decode .v [0x15000000#32, 1#32, 2#32, 3#32, 4#32] = .ok (.tick ⟨1#32, 2#32, 3#32, 4#32⟩) := by
  decide

theorem test_decode_tcdirty : decode .v [0x16000000#32] = .ok .tcdirty := by decide

/-- Illegal opcodes at the edges of the defined ranges (95_test_vectors.md V2); each packet also has
an illegal field or length, which is not looked at. -/
theorem test_decode_illop :
    decode .a [0x0B000000#32] = .bad .illop ∧ decode .a [0x10000000#32] = .bad .illop ∧
    decode .a [0x17FFFFFF#32, 1#32, 2#32, 3#32] = .bad .illop ∧
    decode .v [0x01000000#32, 0x473B8000#32, 4#32] = .bad .illop ∧
    decode .v [0x0A000000#32] = .bad .illop ∧ decode .v [0x0F000000#32] = .bad .illop ∧
    decode .v [0x17000000#32] = .bad .illop := by decide

/-- Illegal fields at the edges of their ranges (95_test_vectors.md V3), next to legal ones; both
ways of saying it agree, the decoder and the rule's table. -/
theorem test_decode_field :
    ([(.a, .nop, 0x00000001#32, true), (.a, .setcoef, 0x02110000#32, true),
      (.a, .setcoef, 0x02500000#32, true), (.a, .setcoef, 0x02430000#32, false),
      (.a, .setcoef, 0x02440000#32, true), (.a, .setbyp, 0x03400001#32, false),
      (.a, .setbyp, 0x03500000#32, true), (.a, .cutupd, 0x04100000#32, true),
      (.a, .cutupd, 0x04430000#32, false), (.a, .cutupd, 0x04040000#32, true),
      (.a, .proc, 0x05000001#32, true), (.a, .proc, 0x05030001#32, true),
      (.a, .proc, 0x0502FFFF#32, false), (.a, .proc, 0x05050001#32, true),
      (.a, .rdcsr, 0x0700000B#32, false), (.a, .rdcsr, 0x0700000C#32, true),
      (.a, .rdcsr, 0x07010000#32, true), (.a, .wrcsr, 0x08000002#32, false),
      (.a, .wrcsr, 0x08000005#32, true), (.v, .wrcsr, 0x08000006#32, false),
      (.v, .wrcsr, 0x08000007#32, true), (.a, .rdcoef, 0x09000100#32, true),
      (.a, .rddly, 0x0A220000#32, true), (.a, .rddly, 0x0A430100#32, false),
      (.a, .rddly, 0x0A000001#32, true), (.v, .pull, 0x10100000#32, true),
      (.v, .pull, 0x10000001#32, true), (.v, .pull, 0x10000100#32, false)]
      : List (PortId × Op × Word × Bool)).all (fun r =>
        (decode r.1 [r.2.2.1] == .bad .field) == r.2.2.2 && fieldFault r.1 r.2.1 r.2.2.1 == r.2.2.2
          && fieldOf r.2.2.1 31 24 == r.2.1.code && r.2.1.onPort r.1) = true := by decide

/-- Illegal lengths (95_test_vectors.md V4), and the largest legal one (30_encoding.md R97). -/
theorem test_decode_len :
    decode .a [0x00000000#32, 0#32] = .bad .len ∧
    decode .a [0x01000000#32, 0x473B8000#32] = .bad .len ∧
    decode .a [0x04010000#32, 0x3F800000#32, 0#32, 0#32, 0#32, 0#32] = .bad .len ∧
    decode .v [0x12000000#32, 0#32, 0#32, 0x40400000#32] = .bad .len ∧
    paylenOf .proc 0x0502FFFF#32 = 131070 ∧ paylenOf .cutupd 0x04430000#32 = 20 := by decide

/-! ### One step on a small state -/

/-- What holds of the next state, when there is one. -/
def nextHas (o : Out State) (f : State → Bool) : Bool :=
  match o with
  | .next t => f t
  | _ => false

/-- N = 4, a window of ones, queues of two blocks and two frames (95_test_vectors.md section 6.3). -/
def small : Config :=
  ⟨2, 2, 2, .table [F32.one, F32.one, F32.one, F32.one], 0xC2400000#32, 0x41A00000#32, 0x469C4000#32,
    .binary32 0⟩

/-- That block after reset. -/
def fresh : State := State.resetWith small

/-- That block after PREPARE : 80.0, 2. -/
def ready : State := startSession 0x42A00000#32 2 fresh

/-- The same with every position bypassed. -/
def open5 : State := { ready with pbyp := ⟨true, true, true, true, true⟩ }

/-- The bounds of 95_test_vectors.md section 6.3: 0, 0, 3.0, 48.0. -/
def box : Bounds := ⟨0#32, 0#32, 0x40400000#32, 0x42400000#32⟩

/-- 46_system.md R250: NOP changes nothing (V156). -/
theorem test_nop : nextHas (exec (.nop .a) fresh) (· == fresh) = true := by decide +kernel

/-- V41: PREPARE : 48000.0, 4 sets FSTAT bit 8 and loads the session. -/
theorem test_prepare :
    nextHas (exec (.prepare 0x473B8000#32 4#32) fresh) (fun t =>
      csrRead .a .fstat t == 0x100#32 && t.srate == 0x473B8000#32 && t.maxblk == 4) = true := by
  decide +kernel

/-- V152: maxblk = 5 > N = 4 is code 5 and changes nothing else. -/
theorem test_prepare_range :
    nextHas (exec (.prepare 0x473B8000#32 5#32) fresh) (fun t =>
      t.prepared == false && csrRead .a .fstat t == 0x10#32 && t.io.a.rsp == [⟨5#32, true, true⟩])
      = true := by decide +kernel

/-- 40_filter_stage.md R128's example. -/
theorem test_setcoef :
    nextHas (exec (.setcoef (.peak .pk1) ⟨0x3F000000#32, 0x3F000000#32, 0#32, 0#32, 0#32⟩) fresh)
      (fun t => t.coef.pk1 == ⟨0x3F000000#32, 0x3F000000#32, 0#32, 0#32, 0#32⟩
        && t.coef.pk2 == identityCoef) = true := by decide +kernel

/-- 40_filter_stage.md R130's example: BYPASS then reads 0x0000EE04. -/
theorem test_setbyp :
    nextHas (exec (.setbyp (.peak .pk2) true) fresh) (fun t => csrRead .a .bypass t == 0xEE04#32)
      = true := by decide +kernel

/-- V42: BYPASS = 0x0000EC00 and SLOPE = 0x00000001. -/
theorem test_cutupd :
    nextHas (exec (.cutupd .lc .s1 [⟨0x3F000000#32, 0#32, 0#32, 0#32, 0#32⟩,
        ⟨0x3E800000#32, 0#32, 0#32, 0#32, 0#32⟩]) fresh) (fun t =>
      csrRead .a .bypass t == 0xEC00#32 && csrRead .v .slope t == 1#32
        && t.coef.lc.s1.b0 == 0x3E800000#32) = true := by decide +kernel

/-- V44: a slope of 3 on the high cut gives BYPASS = 0x00000E00 and SLOPE bits 5:4 = 3. -/
theorem test_cutupd_high :
    nextHas (exec (.cutupd .hc .s3 (List.replicate 4 ⟨0x40000000#32, 0#32, 0#32, 0#32, 0#32⟩)) fresh)
      (fun t => csrRead .a .bypass t == 0x0E00#32 && csrRead .v .slope t == 0x30#32) = true := by
  decide +kernel

/-- V12: the filter 0.5, 0.5, 0, -0.5, 0 alone in the chain on 1.0, 1.0. -/
theorem test_proc :
    nextHas (exec (.proc .mono 2#16 [0x3F800000#32, 0x3F800000#32])
      { open5 with
        pbyp := ⟨true, false, true, true, true⟩
        coef := { open5.coef with pk1 := ⟨0x3F000000#32, 0x3F000000#32, 0#32, 0xBF000000#32, 0#32⟩ } })
      (fun t => t.io.a.rsp == [⟨0x3F000000#32, false, false⟩, ⟨0x3FA00000#32, true, false⟩]
        && t.dly.l.pk1 == ⟨0x3F800000#32, 0x3F800000#32, 0x3FA00000#32, 0x3F000000#32⟩
        && t.queue.l == [[0x3F000000#32, 0x3FA00000#32]] && t.queue.r == []) = true := by
  decide +kernel

/-- V74: the block pushed onto a full queue is dropped, the response is complete. -/
theorem test_proc_full_queue :
    nextHas (exec (.proc .mono 2#16 [0x40A00000#32, 0x40A00000#32])
      { open5 with queue := ⟨[[1#32, 2#32], [3#32, 4#32]], []⟩ })
      (fun t => t.queue.l == [[1#32, 2#32], [3#32, 4#32]] && t.acc.l == []
        && (t.io.a.rsp.map (·.data)) == [0x40A00000#32, 0x40A00000#32] && t.fstat == ⟨0, 0⟩) = true := by
  decide +kernel

/-- V65: 1.0 with everything at reset. -/
theorem test_magq :
    nextHas (exec (.magq 0x41200000#32) ready)
      (fun t => t.io.a.rsp == [⟨0x3F800000#32, true, false⟩]) = true := by decide +kernel

/-- V65: a frequency above SRATE / 2, here 41.0 of 80.0, is code 5. -/
theorem test_magq_range :
    nextHas (exec (.magq 0x42240000#32) ready)
      (fun t => t.io.a.rsp == [⟨5#32, true, true⟩]) = true := by decide +kernel

/-- V150: BYPASS after reset. -/
theorem test_rdcsr :
    nextHas (exec (.rdcsr .v .bypass) fresh)
      (fun t => t.io.v.rsp == [⟨0xEE00#32, true, false⟩]) = true := by decide +kernel

/-- V154: FSTAT_V = 0x1E, WRCSR FCLR : 0x10 leaves bits 1 to 3. -/
theorem test_wrcsr_fclr :
    nextHas (exec (.wrcsr .v .fclr 0x10#32) { ready with fstat := ⟨0x1F#5, 0x1E#5⟩ })
      (fun t => csrRead .v .fstat t == 0x10E#32 && t.fstat.a == 0x1F#5) = true := by decide +kernel

/-- V146: a FLOOR of -0.0 is code 5. -/
theorem test_wrcsr_floor_range :
    nextHas (exec (.wrcsr .v .floor 0x80000000#32) fresh)
      (fun t => t.floor == 0xC2400000#32 && t.io.v.rsp == [⟨5#32, true, true⟩]) = true := by
  decide +kernel

/-- 40_filter_stage.md R131's example, one word on. -/
theorem test_rdcoef :
    nextHas (exec (.rdcoef (.cut .hc .s2)) fresh) (fun t => t.io.a.rsp ==
      [⟨0x3F800000#32, false, false⟩, ⟨0#32, false, false⟩, ⟨0#32, false, false⟩,
        ⟨0#32, false, false⟩, ⟨0#32, true, false⟩]) = true := by decide +kernel

/-- V61's record of the right channel as RDDLY reads it. -/
theorem test_rddly :
    nextHas (exec (.rddly (.peak .pk1) .r) { ready with
        dly := { ready.dly with r := { ready.dly.r with
          pk1 := ⟨0x40000000#32, 0x40000000#32, 0x40000000#32, 0x3F800000#32⟩ } } })
      (fun t => t.io.a.rsp.map (·.data)
        == [0x40000000#32, 0x40000000#32, 0x40000000#32, 0x3F800000#32]) = true := by decide +kernel

/-- V114: the block (1.0, 0.0) enters a zero buffer at its tail. -/
theorem test_pull :
    nextHas (exec (.pull .l) { ready with queue := ⟨[[0x3F800000#32, 0#32], [0xBF800000#32, 0#32]], []⟩ })
      (fun t => t.io.v.rsp == [⟨1#32, true, false⟩] && t.queue.l == [[0xBF800000#32, 0#32]]
        && t.roll.l == [0#32, 0#32, 0x3F800000#32, 0#32]) = true := by decide +kernel

/-- V71: a pull from an empty queue responds 0. -/
theorem test_pull_empty :
    nextHas (exec (.pull .l) ready) (fun t => t.io.v.rsp == [⟨0#32, true, false⟩]) = true := by
  decide +kernel

/-- V111: the frame of the all-zero buffer is FLOOR in both bins. -/
theorem test_fftrun :
    nextHas (exec (.fftrun .l) ready) (fun t => t.io.v.rsp == [⟨1#32, true, false⟩]
      && t.fq.l == [[0xC2400000#32, 0xC2400000#32]]) = true := by decide +kernel

/-- V112: FLOOR maps to the bottom edge, y = 48.0 (x rests on a free value). -/
theorem test_pathgen :
    nextHas (exec (.pathgen .l box) { ready with fq := ⟨[[0xC2400000#32, 0xC2400000#32]], []⟩ })
      (fun t => t.io.v.rsp == [⟨1#32, true, false⟩] && t.fq.l == []
        && t.curframe.l == some [0xC2400000#32, 0xC2400000#32]
        && t.curpath.l.map (·.y) == [0x42400000#32]) = true := by decide +kernel

/-- V119: the newest of two frames wins and 0 dB maps to the top edge. -/
theorem test_pathgen_newest :
    nextHas (exec (.pathgen .l box)
        { ready with fq := ⟨[[0xC2400000#32, 0xC2400000#32], [0xC2400000#32, 0#32]], []⟩ })
      (fun t => t.io.v.rsp == [⟨2#32, true, false⟩] && t.curpath.l.map (·.y) == [0#32]) = true := by
  decide +kernel

/-- V120. -/
theorem test_rdframe :
    nextHas (exec (.rdframe .l) { ready with curframe := ⟨some [0xC2400000#32, 0#32], none⟩ })
      (fun t => t.io.v.rsp.map (·.data) == [2#32, 0xC2400000#32, 0#32]) = true := by decide +kernel

/-- V113. -/
theorem test_rdpath :
    nextHas (exec (.rdpath .l) { ready with curpath := ⟨[⟨0#32, 0x42400000#32⟩], []⟩ })
      (fun t => t.io.v.rsp.map (·.data) == [1#32, 0#32, 0x42400000#32]) = true := by decide +kernel

/-- P6, step 9, with the zero block alone: one frame at FLOOR, its path at the bottom edge. -/
theorem test_tick :
    nextHas (exec (.tick box) { ready with queue := ⟨[[0#32, 0#32], [0#32, 0#32]], []⟩ })
      (fun t => t.io.v.rsp == [] && t.queue.l == [] && t.fq.l == []
        && t.curframe.l == some [0xC2400000#32, 0xC2400000#32]
        && t.curpath.l.map (·.y) == [0x42400000#32] && t.curframe.r == none) = true := by
  decide +kernel

/-- V155: TCDIRTY responds 1 after an event, and clears the flag. -/
theorem test_tcdirty :
    nextHas (exec .tcdirty (paramChanged fresh))
      (fun t => t.io.v.rsp == [⟨1#32, true, false⟩] && t.dirty == false) = true := by decide +kernel

/-- The step runs a placed instruction: RDCSR BYPASS, the default block just reset (V150). -/
theorem test_step_runs_fetched :
    step (State.reset.withFetchWord 32 0x07000008) = exec (.rdcsr .a .bypass) State.reset := rfl

/-! ### The arithmetic (95_test_vectors.md V18, V19, V22, V24) -/

theorem test_fmul_rounds :
    fmul 0 0x3F800001#32 0x3F800001#32 = 0x3F800002#32 ∧ fmul 0 0x3F000000#32 3#32 = 2#32 ∧
    fmul 0 0x3F000000#32 1#32 = 0#32 ∧ fmul 0 0x7F7FFFFF#32 0x40000000#32 = 0x7F800000#32 := by
  decide +kernel

theorem test_fadd_rounds :
    fadd 0 0x3E4CCCCD#32 0x3DCCCCCD#32 = 0x3E99999A#32 ∧ fadd 0 0x80000000#32 0#32 = 0#32 ∧
    fadd 0 0x80000000#32 0x80000000#32 = 0x80000000#32 := by decide +kernel

/-- 1/3 is nearest to 0x3EAAAAAB, sqrt(2) to 0x3FB504F3 (IEEE 754, worked by hand). -/
theorem test_fdiv_fsqrt_round :
    fdiv 0 0x3F800000#32 0x40400000#32 = 0x3EAAAAAB#32 ∧ fsqrt 0 0x40000000#32 = 0x3FB504F3#32 := by
  decide +kernel

/-- IEEE 754: the infinities and invalid operations of R12 and R123, and V22's overflow. -/
theorem test_infinities :
    product? 0#32 0x7F800000#32 = none ∧ sum? 0x7F800000#32 (fneg 0x7F800000#32) = none ∧
    fadd 0 0x7F800000#32 0x3F800000#32 = 0x7F800000#32 ∧ fdiv 0 0xBF800000#32 0#32 = 0xFF800000#32 ∧
    quotient? 0#32 0x80000000#32 = none ∧ fdiv 0 0xBF800000#32 0x7F800000#32 = 0x80000000#32 := by
  decide +kernel

/-- A pole above half the sample rate that MAGQ accepts: SRATE = 3 subnormal units halves to 2 (ties
to even), and f = 2 units is two thirds of a turn, where 1 + z + z^2 is zero (42_mono_chain.md R171). -/
theorem test_pole_above_half :
    legalFreq (NumChoice.binary32 0).record 2#32 3#32 = true ∧
    poleAt F32.one F32.one 2#32 3#32 = true ∧ poleAt F32.one F32.one 1#32 3#32 = true ∧
    poleAt F32.zero F32.one 2#32 3#32 = false := by decide +kernel

/-! ### Witnesses: every hypothesis of an obligation is met by something

Each theorem names the obligation; a part for each clause, at a boundary of its range where it has
one. -/

/-- A port's stream holding one packet, and the agenda naming an event. -/
def waiting (p : PortId) (rx packet : List Word) (es : List Event) (s : State) : State :=
  { s with io := s.io.set p ⟨packetBeats packet, rx, []⟩, sched := es }

theorem ready_inv : ready.Inv where
  config := by decide
  slopes := by intro c k; cases c <;> cases k <;> decide
  session := (by decide : legalSession ready.cfg.n ready.srate ready.maxblk = true)
  queues := by intro c; cases c <;> decide
  analyzer := by
    intro c
    refine ⟨?_, ?_, ?_, ?_, ?_⟩
    · cases c <;> decide
    · cases c <;> decide
    · cases c <;> decide
    · intro frame h; cases c <;> cases h
    · cases c <;> decide
  floor := by decide

theorem witness_DecodeInvertsEncode :
    Instr.wellFormed (.cutupd .hc .s3 [identityCoef, identityCoef, identityCoef, identityCoef]) = true ∧
    Instr.wellFormed (.proc .stereo 1#16 [0#32, 0#32]) = true ∧
    Instr.wellFormed (.wrcsr .v .floor 0#32) = true := by decide

theorem witness_DecodeAcceptsOnlyEncodings :
    decode .v [0x08000005#32, 0#32] = .ok (.wrcsr .v .ctrl 0#32) := by decide

theorem witness_UndefinedOpcodeFaults :
    nextEvent (waiting .a [] [0x0B000000#32] [.command .a] fresh) = some (.command .a, []) ∧
    nextEvent (waiting .a [] [0x0B000000#32] [.start .a] fresh) = some (.start .a, []) ∧
    nextEvent (waiting .a [] [0x0B000000#32] [] fresh) = some (.command .a, []) ∧
    busy .a (waiting .a [] [0x0B000000#32] [.command .a] fresh) = false ∧
    ((waiting .a [] [0x0B000000#32] [.command .a] fresh).io.get .a).cmd = packetBeats [0x0B000000#32] ++ [] ∧
    decode .a [0x0B000000#32] = .bad .illop := ⟨rfl, rfl, rfl, rfl, rfl, by decide⟩

theorem witness_FieldFaultTable :
    fieldOf 0x0700000C#32 31 24 = Op.rdcsr.code ∧ Op.rdcsr.onPort .a = true := by decide

theorem witness_PayloadLengthFromHeader :
    fieldOf 0x0502FFFF#32 31 24 = Op.proc.code ∧ Op.proc.onPort .a = true ∧
    fieldFault .a .proc 0x0502FFFF#32 = false := by decide

/-- The header has been accepted before, the payload word completes the packet; then each other
event, where it acts and where it does not. -/
theorem witness_StepRunsDecodedCommand :
    ((waiting .v [0x08000005#32] [0#32] [.command .v] ready).sched = [.command .v] ∧
      (waiting .v [0x08000005#32] [0#32] [.start .v] ready).sched = [.start .v] ∧
      busy .v (waiting .v [0x08000005#32] [0#32] [.command .v] ready) = false ∧
      ((waiting .v [0x08000005#32] [0#32] [.command .v] ready).io.get .v).cmd = packetBeats [0#32] ++ [] ∧
      decode .v (((waiting .v [0x08000005#32] [0#32] [.command .v] ready).io.get .v).rx ++ [0#32])
        = .ok (.wrcsr .v .ctrl 0#32)) ∧
    ((waiting .v [0x08000005#32] [0#32] [] ready).sched = [] ∧
      (waiting .v [0x08000005#32] [0#32] [] ready).procRun = none ∧
      (waiting .v [0x08000005#32] [0#32] [] ready).tickRun = none ∧
      takePacket ((waiting .v [0x08000005#32] [0#32] [] ready).io.get .a).cmd = none) ∧
    ((2#16).toNat = 2 ∧ fresh.prepared = false ∧ ready.maxblk < (3#16).toNat ∧
      ({ ready with anen := false } : State).anen = false) ∧
    (busy .a { ready with procRun := some ⟨⟨[], [], []⟩, none⟩ } = true ∧
      ∀ b ∈ (ready.io.get .a).cmd, b.last = false) ∧
    ((({ ready with io := ⟨⟨[⟨1#32, false⟩], [], []⟩, .empty⟩ } : State).io.get .a).cmd
        = ⟨1#32, false⟩ :: [] ∧
      (({ ready with io := ⟨⟨[⟨1#32, true⟩], [], []⟩, .empty⟩ } : State).io.get .a).cmd
        = ⟨1#32, true⟩ :: [] ∧
      ({ ready with sched := [.accept .a] } : State).sched = .accept .a :: [] ∧
      ({ ready with sched := [.take .v] } : State).sched = .take .v :: []) :=
  ⟨⟨rfl, rfl, rfl, rfl, by decide⟩, ⟨rfl, rfl, rfl, rfl⟩, ⟨rfl, rfl, by decide, rfl⟩,
    ⟨rfl, by decide⟩, rfl, rfl, rfl, rfl⟩

theorem witness_StepTakesDecodeFault :
    nextEvent (waiting .a [0x00000000#32] [0#32] [.command .a] fresh) = some (.command .a, []) ∧
    nextEvent (waiting .a [0x00000000#32] [0#32] [.start .a] fresh) = some (.start .a, []) ∧
    nextEvent (waiting .a [0x00000000#32] [0#32] [] fresh) = some (.command .a, []) ∧
    busy .a (waiting .a [0x00000000#32] [0#32] [.command .a] fresh) = false ∧
    ((waiting .a [0x00000000#32] [0#32] [.command .a] fresh).io.get .a).cmd = packetBeats [0#32] ++ [] ∧
    decode .a (((waiting .a [0x00000000#32] [0#32] [.command .a] fresh).io.get .a).rx ++ [0#32])
      = .bad .len := ⟨rfl, rfl, rfl, rfl, rfl, by decide⟩

theorem witness_FetchWordRunsDecodedInstruction :
    decodeTableWord 32 0x07000008 = some (.rdcsr .a .bypass) ∧
    decodeTableWord 32 0x10000100 = some (.pull .r) := by decide

theorem witness_StepKeepsInvariant :
    ready.Inv ∧ step ready = .next ready := ⟨ready_inv, rfl⟩

theorem witness_ResetHasInvariant : legalConfig small = true := by decide

theorem witness_SectionFlagsFollowSlope :
    [identityCoef].length = Sec.s0.toNat + 1 ∧
    (∃ t, exec (.cutupd .lc .s0 [identityCoef]) fresh = .next t) ∧ Cut.hc ≠ .lc ∧
    ((∀ c o sets, Instr.tcdirty ≠ .cutupd c o sets) ∧ ∃ t, exec .tcdirty ready = .next t) ∧
    SlopesAgree ready ∧ step ready = .next ready :=
  ⟨rfl, ⟨_, rfl⟩, by decide, ⟨by intros; exact Instr.noConfusion, _, rfl⟩, ready_inv.slopes, rfl⟩

theorem witness_ResetValues : ∃ s, s = State.resetWith small := ⟨_, rfl⟩

theorem witness_ResetEventAbandonsAll :
    (waiting .a [0x01000000#32] [0#32] [.reset] ready).sched = .reset :: [] := rfl

theorem witness_NotPreparedFaults :
    (needsSession (.pull .l) = true ∧ Instr.wellFormed (.pull .l) = true ∧ fresh.prepared = false) ∧
    (needsSession (.nop .v) = false ∧
      exec (.nop .v) { fresh with fstat := ⟨0x8#5, 0#5⟩ } = .next { fresh with fstat := ⟨0x8#5, 0#5⟩ } ∧
      (({ fresh with fstat := ⟨0x8#5, 0#5⟩ } : State).fstat.get .a).getLsbD 3 = true) ∧
    (ready.prepared = true ∧ step { ready with sched := [.reset] } = .next fresh ∧
      fresh.prepared = false) :=
  ⟨by decide, ⟨by decide, rfl, by decide⟩, ⟨by decide, rfl, by decide⟩⟩

/-- Each condition just outside its limit, and each command just inside. -/
theorem witness_RangeFaultTable :
    ready.Inv ∧
    rangeFault (.prepare 0x42A00000#32 5#32) ready = true ∧
    rangeFault (.prepare 0x42A00000#32 4#32) ready = false ∧
    rangeFault (.proc .mono 3#16 [0#32, 0#32, 0#32]) ready = true ∧
    rangeFault (.proc .mono 2#16 [0#32, 0#32]) ready = false ∧
    rangeFault (.magq 0x42200001#32) ready = true ∧ rangeFault (.magq 0x42200000#32) ready = false ∧
    rangeFault (.magq 0x80000001#32) ready = true ∧ rangeFault (.magq 0x80000000#32) ready = false ∧
    rangeFault (.pathgen .l ⟨0#32, 0#32, 0x7F800000#32, 0#32⟩) ready = true ∧
    rangeFault (.tick ⟨0#32, 0#32, 0x7F7FFFFF#32, 0#32⟩) ready = false ∧
    rangeFault (.wrcsr .v .floor 0x80000000#32) ready = true ∧
    rangeFault (.wrcsr .v .floor 0x80000001#32) ready = false ∧
    (exec (.nop .v) { ready with fstat := ⟨0x10#5, 0#5⟩ } = .next { ready with fstat := ⟨0x10#5, 0#5⟩ } ∧
      (({ ready with fstat := ⟨0x10#5, 0#5⟩ } : State).fstat.get .a).getLsbD 4 = true) := by
  refine ⟨ready_inv, ?_, ?_, ?_, ?_, ?_, ?_, ?_, ?_, ?_, ?_, ?_, ?_, rfl, ?_⟩ <;> decide +kernel

theorem witness_PrepareStartsSession :
    F32.isFinite 0x00000001#32 = true ∧ flt F32.zero 0x00000001#32 = true ∧ 1 ≤ (4#32).toNat ∧
    (4#32).toNat ≤ 2 ^ fresh.cfg.order := by decide

theorem witness_PrepareTwiceSameAsOnce :
    legalSession fresh.cfg.n 0x42A00000#32 (2#32).toNat = true ∧
    exec (.prepare 0x42A00000#32 2#32) fresh = .next ready := ⟨by decide, rfl⟩

theorem witness_FstatBits : ∃ t, exec (.rdcsr .v .fstat) (paramChanged fresh) = .next t := ⟨_, rfl⟩

theorem witness_WrcsrRights :
    (F32.isFinite 0x80000001#32 = true ∧ flt 0x80000001#32 F32.zero = true) ∧
    (Csr.floor ≠ .fclr ∧ ¬(PortId.a = .v ∧ (Csr.floor = .ctrl ∨ Csr.floor = .floor))) ∧
    (Csr.slope ≠ .fclr ∧ ¬(PortId.v = .v ∧ (Csr.slope = .ctrl ∨ Csr.slope = .floor))) := by decide

/-- An event; a step that leaves DIRTY, one that is reset, one that is TCDIRTY. -/
theorem witness_DirtyIsNeverLost :
    ({ ready with sched := [.paramChanged] } : State).sched = .paramChanged :: [] ∧
    ((paramChanged ready).dirty = true ∧ step (paramChanged ready) = .next (paramChanged ready)) ∧
    (∃ t, step { paramChanged ready with sched := [.reset] } = .next t ∧ t.dirty = false) ∧
    (∃ t, step (waiting .v [] [0x16000000#32] [.command .v] (paramChanged ready)) = .next t
      ∧ t.dirty = false) := ⟨rfl, ⟨rfl, rfl⟩, ⟨_, rfl, rfl⟩, ⟨_, rfl, rfl⟩⟩

theorem witness_CutupdLoadsChain :
    [identityCoef].length = Sec.s0.toNat + 1 ∧ (List.replicate 4 identityCoef).length = Sec.s3.toNat + 1 := by
  decide

theorem witness_ActiveSectionCount :
    ((List.replicate 4 identityCoef).length = Sec.s3.toNat + 1 ∧
      ∃ t, exec (.cutupd .hc .s3 (List.replicate 4 identityCoef)) fresh = .next t) ∧
    ((∀ c o sets, Instr.setbyp (.cut .lc) true ≠ .cutupd c o sets) ∧
      ∃ t, exec (.setbyp (.cut .lc) true) fresh = .next t) :=
  ⟨⟨by decide, _, rfl⟩, ⟨by intros; exact Instr.noConfusion, _, rfl⟩⟩

theorem witness_NaNSticksInStage :
    (Delay.mk 0xFF800001#32 0#32 0#32 0#32).x1.isNaN = true ∧
    (Delay.mk 0#32 0x7FFFFFFF#32 0#32 0#32).x2.isNaN = true ∧
    (Delay.mk 0#32 0#32 0x7FC00000#32 0#32).y1.isNaN = true ∧
    (Delay.mk 0#32 0#32 0#32 0x7F800001#32).y2.isNaN = true := by decide

theorem all_bypassed : ∀ p, open5.settings.pbyp.get p = true := by
  intro p
  rcases p with c | k
  · cases c <;> rfl
  · cases k <;> rfl

/-- After reset section 1 is bypassed and section 0 is not; then a bypassed position; then all. -/
theorem witness_BypassedChainIsTransparent :
    (ready.settings.sbyp.get .lc).get .s1 = true ∧ (ready.settings.sbyp.get .lc).get .s0 = false ∧
    open5.settings.pbyp.get (Stage.peak .pk1).pos = true ∧
    (∃ c k, Stage.cut .lc .s1 = .cut c k ∧ (ready.settings.sbyp.get c).get k = true) ∧
    (∀ p, open5.settings.pbyp.get p = true) :=
  ⟨rfl, rfl, rfl, ⟨_, _, rfl, rfl⟩, all_bypassed⟩

/-- The longest block MAXBLK allows, and the empty one. -/
theorem witness_ProcFiltersAndPushes :
    ([1#32, 2#32, 3#32, 4#32] : List F32).length = (2#16).toNat * ChanCount.stereo.toNat ∧
    ([] : List F32).length = (0#16).toNat * ChanCount.mono.toNat ∧
    open5.prepared = true ∧ (2#16).toNat ≤ open5.maxblk := by decide

theorem witness_ProcOfNoSamples : ready.prepared = true ∧ fresh.prepared = false := by decide

theorem witness_ProcSplitsAnywhere :
    (2#16).toNat = (1#16).toNat + (1#16).toNat ∧ open5.prepared = true ∧ (2#16).toNat ≤ open5.maxblk ∧
    ∀ c ∈ ChanCount.stereo.chans, ((fun _ => [1#32] : Chan → List F32) c).length = (1#16).toNat ∧
      ((fun _ => [2#32] : Chan → List F32) c).length = (1#16).toNat :=
  ⟨rfl, rfl, by decide, fun _ _ => ⟨rfl, rfl⟩⟩

/-- A stereo block of one sample whose right channel goes first. -/
def shuffled : List Event := [.filter .r, .push .r, .filter .l, .push .l, .respond]

/-- The same with port V reading a register and pulling, and an event, between. -/
def crowded : List Event :=
  [.filter .r, .command .v, .push .r, .paramChanged, .filter .l, .command .v, .push .l, .take .v, .respond]

/-- PULL R and RDCSR CTRL waiting on port V. -/
def besideV : State :=
  { open5 with io := open5.io.set .v ⟨packetBeats [0x10000100#32] ++ packetBeats [0x07000005#32], [], []⟩ }

theorem witness_ProcOrderIndependent :
    ([1#32, 2#32] : List F32).length = (1#16).toNat * ChanCount.stereo.toNat ∧ open5.prepared = true ∧
    (1#16).toNat ≤ open5.maxblk ∧ (∀ e ∈ shuffled, e.isProcStep = true) ∧
    ∃ t, RunsAgenda shuffled { open5 with procRun := some (.start .stereo 1 [1#32, 2#32]) } t
      ∧ t.procRun = none :=
  ⟨rfl, rfl, by decide, by decide, _, rfl, rfl⟩

theorem witness_PortVCannotChangeProc :
    ([1#32, 2#32] : List F32).length = (1#16).toNat * ChanCount.stereo.toNat ∧ besideV.prepared = true ∧
    (1#16).toNat ≤ besideV.maxblk ∧ (∀ e ∈ crowded, e.besidePortA = true) ∧
    (∃ t, RunsAgenda crowded { besideV with procRun := some (.start .stereo 1 [1#32, 2#32]) } t
      ∧ t.procRun = none) ∧
    ∃ u, exec (.proc .stereo 1#16 [1#32, 2#32]) besideV = .next u :=
  ⟨rfl, rfl, by decide, by decide, ⟨_, rfl, rfl⟩, _, rfl⟩

theorem witness_ProcInFlightFinishes :
    ([1#32, 2#32] : List F32).length = (2#16).toNat * ChanCount.mono.toNat ∧ ready.prepared = true ∧
    (2#16).toNat ≤ ready.maxblk := by decide

/-- Both ends of the range 0..SRATE / 2, and the all-bypassed chain. -/
theorem witness_MagqRespondsProduct :
    open5.prepared = true ∧ (∀ p, open5.pbyp.get p = true) ∧
    (F32.isFinite 0x80000000#32 = true ∧ fle F32.zero 0x80000000#32 = true ∧
      fle 0x80000000#32 (open5.num.fdiv open5.srate F32.two) = true) ∧
    (F32.isFinite 0x42200000#32 = true ∧ fle F32.zero 0x42200000#32 = true ∧
      fle 0x42200000#32 (open5.num.fdiv open5.srate F32.two) = true) :=
  ⟨rfl, all_bypassed, by decide +kernel, by decide +kernel⟩

/-- A gain; a pure gain at a zero frequency, where two clauses meet and agree in binary32; a set that
is no pure gain; and a pole at half the sample rate, a1 = 1 and a2 = 0. -/
theorem witness_StageMagnitudeLimits :
    F32.isFinite 0xC0000000#32 = true ∧ feq 0x80000000#32 F32.zero = true ∧
    (fabs 0xC0000000#32 = fdiv 0 (fabs (fadd 0 (fadd 0 0xC0000000#32 F32.zero) F32.zero))
      (fabs (fadd 0 (fadd 0 F32.one F32.zero) F32.zero))) ∧
    (¬(F32.one.isFinite = true ∧ (⟨F32.one, F32.one, F32.zero, F32.zero, F32.zero⟩ : Coef)
      = ⟨F32.one, F32.zero, F32.zero, F32.zero, F32.zero⟩)) ∧
    (F32.isFinite 0x42200000#32 = true ∧ feq 0x42200000#32 F32.zero = false ∧
      F32.isFinite 0x42A00000#32 = true ∧ flt F32.zero 0x42A00000#32 = true ∧
      (let w : ℝ := 2 * Real.pi * (F32.exact 0x42200000#32 / F32.exact 0x42A00000#32)
       (F32.one.exact : ℝ) + F32.one.exact * Real.cos w + F32.zero.exact * Real.cos (2 * w) = 0 ∧
       (F32.one.exact : ℝ) * Real.sin w + F32.zero.exact * Real.sin (2 * w) = 0)) := by
  refine ⟨by decide, by decide, by decide +kernel, by decide, by decide, by decide, by decide,
    by decide, ?_⟩
  have hw : 2 * Real.pi * ((F32.exact 0x42200000#32 : ℝ) / F32.exact 0x42A00000#32) = Real.pi := by
    have h1 : F32.exact 0x42A00000#32 = 2 * F32.exact 0x42200000#32 := by decide +kernel
    have h0 : F32.exact 0x42200000#32 ≠ 0 := by decide +kernel
    have h0' : (F32.exact 0x42200000#32 : ℝ) ≠ 0 := Int.cast_ne_zero.mpr h0
    rw [h1]
    push_cast
    field_simp
  have hz : F32.zero.exact = 0 := by decide
  simp only [hw, hz, Real.cos_pi, Real.sin_pi, Int.cast_zero]
  constructor <;> ring

/-- Finite operands, with a sum below and one from the overflow bound on, and one halfway between two
neighbours (2^24 + 1, nearest 2^24 and 2^24 + 2); infinities that agree, that cancel; a NaN. -/
theorem witness_SumCorrectlyRounded :
    (F32.isFinite 0x7F7FFFFF#32 = true ∧
      (F32.exact 0x7F7FFFFF#32 + F32.exact 0#32).natAbs < overflowAt * 1 ∧
      overflowAt * 1 ≤ (F32.exact 0x7F7FFFFF#32 + F32.exact 0x73000000#32).natAbs) ∧
    (F32.isFinite 0x4B800001#32 = true ∧
      |(fadd 0 0x4B800000#32 F32.one).exact * (1 : Nat) - (F32.exact 0x4B800000#32 + F32.one.exact)|
        = |F32.exact 0x4B800001#32 * (1 : Nat) - (F32.exact 0x4B800000#32 + F32.one.exact)|) ∧
    (F32.isInf 0x7F800000#32 = true ∧ F32.isInf 0xFF800000#32 = true ∧
      F32.neg? 0x7F800000#32 ≠ F32.neg? 0xFF800000#32) ∧
    F32.isNaN 0x7FC00000#32 = true := by decide +kernel

/-- Finite operands, with a product below and one at the overflow bound or above, and one halfway
between two neighbours (half of the third subnormal); a divisor of zero; infinities; a NaN. -/
theorem witness_ProductCorrectlyRounded :
    (F32.isFinite 0x7F7FFFFF#32 = true ∧
      (F32.exact 0x7F7FFFFF#32 * F32.one.exact).natAbs < overflowAt * 2 ^ 149 ∧
      overflowAt * 2 ^ 149 ≤ (F32.exact 0x7F7FFFFF#32 * F32.two.exact).natAbs) ∧
    (F32.isFinite 1#32 = true ∧
      |(fmul 0 3#32 0x3F000000#32).exact * (2 ^ 149 : Nat) - F32.exact 3#32 * F32.exact 0x3F000000#32|
        = |F32.exact 1#32 * (2 ^ 149 : Nat) - F32.exact 3#32 * F32.exact 0x3F000000#32|) ∧
    (F32.exact 0x80000000#32 = 0 ∧ F32.two.exact ≠ 0) ∧
    (F32.isInf 0xFF800000#32 = true ∧ F32.isNaN 0x7F800001#32 = true) := by decide +kernel

theorem witness_SampleQueuePrimitives :
    ready.queue.get .l = [] ∧
    (⟨[[1#32, 2#32]], []⟩ : Chans (List (List F32))).get .l = [1#32, 2#32] :: [] := by decide

/-- The left channel's queue about to be filled, and about to be pulled; the agenda is empty. -/
def pushing : State :=
  { ready with acc := ⟨[1#32], []⟩, procRun := some ⟨⟨[], [2#32], []⟩, none⟩ }

def ticking : State :=
  { ready with queue := ⟨[[1#32, 2#32]], []⟩, tickRun := some (.start box .l 2) }

/-- One micro-step for each way a queue can go on, named by the agenda or the default one. -/
theorem witness_QueueChangesByMicroStep :
    ((∀ p, Event.paramChanged ≠ .command p ∧ Event.paramChanged ≠ .start p) ∧
      Event.paramChanged ≠ .reset ∧
      nextEvent { ready with sched := [.paramChanged] } = some (.paramChanged, []) ∧
      ∃ t, step { ready with sched := [.paramChanged] } = .next t) ∧
    ((∀ p, Event.push .l ≠ .command p ∧ Event.push .l ≠ .start p) ∧ Event.push .l ≠ .reset ∧
      nextEvent pushing = some (.push .l, []) ∧
      ∃ t, step pushing = .next t ∧ t.queue.get .l = [[1#32, 2#32]]) ∧
    ((∀ p, Event.tick ≠ .command p ∧ Event.tick ≠ .start p) ∧ Event.tick ≠ .reset ∧
      nextEvent ticking = some (.tick, []) ∧
      ∃ t, step ticking = .next t ∧ t.queue.get .l = []) := by
  refine ⟨⟨?_, ?_, rfl, _, rfl⟩, ⟨?_, ?_, rfl, _, rfl, rfl⟩, ⟨?_, ?_, rfl, _, rfl, rfl⟩⟩
  all_goals first | decide | (intro p; cases p <;> decide)

/-- A block shorter than the buffer, and one that replaces it whole. -/
theorem witness_RollShiftMovesLeft :
    (ready.roll.get .l).length = ready.cfg.n ∧ ([1#32, 2#32] : List F32).length ≤ ready.cfg.n ∧
    0 < ready.cfg.n - ([1#32, 2#32] : List F32).length ∧
    ([1#32, 2#32, 3#32, 4#32] : List F32).length = ready.cfg.n ∧ Chan.r ≠ .l := by decide

theorem witness_PullMovesOldestBlock :
    ready.prepared = true ∧ ready.anen = true ∧ ready.queue.get .l = [] ∧
    ({ ready with queue := ⟨[[1#32, 2#32]], []⟩ } : State).queue.get .l = [1#32, 2#32] :: [] :=
  ⟨rfl, rfl, rfl, rfl⟩

/-- An empty frame queue and a full one. -/
theorem witness_FftrunQueuesFrame :
    ready.prepared = true ∧ ready.anen = true ∧ (ready.fq.get .l).length < ready.cfg.fcap ∧
    ready.cfg.fcap ≤ (({ ready with fq := ⟨[[0#32, 0#32], [0#32, 0#32]], []⟩ } : State).fq.get .l).length := by
  decide

theorem witness_DecibelNeverBelowFloor :
    legalFloor 0xC2400000#32 = true ∧ flt F32.zero 0x80000000#32 = false ∧
    F32.isFinite 0x7F800000#32 = false ∧
    (F32.isFinite 0x00000001#32 = true ∧ flt F32.zero 0x00000001#32 = true) := by decide

theorem witness_PathgenShowsNewestFrame :
    ready.prepared = true ∧ someBoundNotFinite box = false ∧ ready.anen = true ∧
    ready.fq.get .l = [] ∧
    ({ ready with fq := ⟨[[0#32, 0#32], [1#32, 1#32]], []⟩ } : State).fq.get .l
      = [[0#32, 0#32]] ++ [[1#32, 1#32]] := ⟨rfl, by decide, rfl, rfl, rfl⟩

theorem witness_FrameAndPathReadback :
    ready.curframe.get .l = none ∧
    ({ ready with curframe := ⟨some [0#32, 0#32], none⟩ } : State).curframe.get .l = some [0#32, 0#32] :=
  ⟨rfl, rfl⟩

theorem witness_TickShowsNewestKeptFrame :
    ready.Inv ∧ ready.prepared = true ∧ someBoundNotFinite box = false ∧ ready.anen = true ∧
    ((ready.fq.get .l ++ (rollsAfter (ready.roll.get .l) (ready.queue.get .l)).map
      (spectrumDb ready.cfg ready.floor)).take ready.cfg.fcap = []) ∧
    (∃ newest, (({ ready with fq := ⟨[[0#32, 0#32]], []⟩ } : State).fq.get .l).getLast? = some newest) :=
  ⟨ready_inv, rfl, by decide, rfl, rfl, _, rfl⟩

/-- Twelve micro-steps of a TICK of two slots on empty queues. -/
theorem witness_TickMicroStepsRefineTick :
    ready.prepared = true ∧ someBoundNotFinite box = false ∧ ready.anen = true ∧
    (∀ e ∈ List.replicate 12 Event.tick, e = .tick) ∧
    ∃ t, RunsAgenda (List.replicate 12 .tick) { ready with tickRun := some (.start box .l ready.cfg.qcap) } t
      ∧ t.tickRun = none :=
  ⟨rfl, by decide, rfl, fun _ h => List.eq_of_mem_replicate h, _, rfl, rfl⟩

theorem witness_DisabledAnalyzerDoesNothing :
    (({ ready with anen := false } : State).prepared = true ∧
      ({ ready with anen := false } : State).anen = false ∧ someBoundNotFinite box = false) ∧
    fresh.prepared = false := by decide

theorem witness_PortsOwnTheirState :
    (∃ t, exec (.wrcsr .v .ctrl 0#32) ready = .next t) ∧ Instr.port (.wrcsr .v .ctrl 0#32) = .v ∧
    (∃ t, exec (.setbyp (.peak .pk1) true) ready = .next t) ∧
    Instr.port (.setbyp (.peak .pk1) true) = .a ∧
    (∀ sr mb, Instr.setbyp (.peak .pk1) true ≠ .prepare sr mb) ∧
    (∃ t, beginCommand (.tick box) ready = .next t) ∧
    (∀ e ∈ [Event.filter .l, .push .r, .respond, .tick, .accept .a, .take .v, .paramChanged],
      nextEvent { ready with sched := [e] } = some (e, []) ∧
      ∃ t, step { ready with sched := [e] } = .next t) ∧
    (nextEvent pushing = some (.push .l, []) ∧ ∃ t, step pushing = .next t) ∧
    (nextEvent ticking = some (.tick, []) ∧ (∃ run, ticking.tickRun = some run ∧ run.ch = .l) ∧
      ∃ t, step ticking = .next t) :=
  ⟨⟨_, rfl⟩, rfl, ⟨_, rfl⟩, rfl, by intros; exact Instr.noConfusion, ⟨_, rfl⟩,
    fun _ h => ⟨rfl, by
      simp only [List.mem_cons, List.not_mem_nil, or_false] at h
      rcases h with rfl | rfl | rfl | rfl | rfl | rfl | rfl <;> exact ⟨_, rfl⟩⟩,
    ⟨rfl, _, rfl⟩, rfl, ⟨_, rfl, rfl⟩, _, rfl⟩

theorem witness_FilterRegisterWriters :
    (∃ t, exec .tcdirty ready = .next t) ∧ (∀ st k, Instr.tcdirty ≠ .setcoef st k) ∧
    (∀ c o sets, Instr.tcdirty ≠ .cutupd c o sets) ∧ (∀ nch n xs, Instr.tcdirty ≠ .proc nch n xs) ∧
    (∀ sr mb, Instr.tcdirty ≠ .prepare sr mb) ∧ (∀ p flag, Instr.tcdirty ≠ .setbyp p flag) ∧
    ((∀ p, Event.filter .l ≠ .command p ∧ Event.filter .l ≠ .start p) ∧ Event.filter .l ≠ .reset ∧
      Event.filter .l ≠ .filter .r ∧
      nextEvent { open5 with procRun := some ⟨⟨[1#32], [], []⟩, none⟩ } = some (.filter .l, []) ∧
      ∃ t, step { open5 with procRun := some ⟨⟨[1#32], [], []⟩, none⟩ } = .next t) :=
  ⟨⟨_, rfl⟩, by intros; exact Instr.noConfusion, by intros; exact Instr.noConfusion,
    by intros; exact Instr.noConfusion, by intros; exact Instr.noConfusion,
    by intros; exact Instr.noConfusion, by intro p; cases p <;> decide, by decide, by decide, rfl,
    _, rfl⟩

end Sys2Proof.Tests
end

section
/-! SUPPORT. The numbers the operand names stand for, bounded (10_state.md R21, R32,
60_exceptions.md R271), and which registers a port may write (R36). -/

namespace Sys2Proof

/-- The code of a fault is one of 1 to 5 (60_exceptions.md R271). -/
theorem FaultCode.toNat_bounds (k : FaultCode) : 1 ≤ k.toNat ∧ k.toNat ≤ 5 := by
  cases k <;> decide

/-- A slope order is 0 to 3 (R32). -/
theorem Sec.toNat_le_three (k : Sec) : k.toNat ≤ 3 := by cases k <;> decide

/-- A position is 0 to 4 (R21). -/
theorem Pos.toNat_le_four (pos : Pos) : pos.toNat ≤ 4 := by
  rcases pos with c | k
  · cases c <;> decide
  · cases k <;> decide

/-- The registers a port may only read: all but FCLR, and on port V all but CTRL and FLOOR too
(R36, R258). -/
theorem Csr.writable_eq_false_iff (p : PortId) (r : Csr) :
    r.writable p = false ↔ r ≠ .fclr ∧ ¬(p = .v ∧ (r = .ctrl ∨ r = .floor)) := by
  cases p <;> cases r <;> simp [Csr.writable]

end Sys2Proof
end

section
/-! SUPPORT. The flag words of 10_state.md bit by bit: the fault bits (R35, R39, R40), SLOPE (R45)
and BYPASS (R46). -/

namespace Sys2Proof.Machine

/-- A bit of a word, from the binary digit of the number the word is made of. -/
theorem getLsbD_ofNat_of_digit {n k : Nat} {b : Bool} (hk : k < 32) (h : n / 2 ^ k % 2 = b.toNat) :
    (BitVec.ofNat 32 n).getLsbD k = b := by
  rw [BitVec.getLsbD_ofNat, Nat.testBit_eq_decide_div_mod_eq, h]
  cases b <;> simp [hk]

/-- A fault sets its own sticky bit and keeps the others (R35, R274). -/
theorem faultSet_getLsbD (k : FaultCode) (bits : BitVec 5) {j : Nat} (hj : j < 5) :
    (faultSet k bits).getLsbD j = (decide (j + 1 = k.toNat) || bits.getLsbD j) := by
  have hk := k.toNat_bounds
  have hcode : (k.toNat - 1 = j) ↔ (j + 1 = k.toNat) := by omega
  rw [faultSet, BitVec.getLsbD_or, BitVec.getLsbD_ofNat, Nat.testBit_two_pow]
  simp only [hj, hcode, decide_true, Bool.true_and, Bool.or_comm]

/-- FCLR clears the sticky bits that are 1 in its operand and keeps the others (R40). -/
theorem faultClear_getLsbD (w : Word) (bits : BitVec 5) {j : Nat} (hj : j < 5) :
    (faultClear w bits).getLsbD j = (bits.getLsbD j && !w.getLsbD j) := by
  simp [faultClear, hj]

/-- Every bit of the FSTAT word (R39). -/
theorem fstatWord_getLsbD (bits : BitVec 5) (prepared dirty : Bool) (j : Nat) :
    (fstatWord bits prepared dirty).getLsbD j =
      if j < 5 then bits.getLsbD j
      else if j = 8 then prepared
      else if j = 9 then dirty
      else false := by
  have hp := prepared.toNat_le
  have hd := dirty.toNat_le
  have hb := bits.isLt
  by_cases hlow : j < 5
  · have hsum : bits.toNat + 2 ^ 8 * prepared.toNat + 2 ^ 9 * dirty.toNat
        = 2 ^ 5 * (8 * prepared.toNat + 16 * dirty.toNat) + bits.toNat := by omega
    rw [fstatWord, BitVec.getLsbD_ofNat, hsum, Nat.testBit_two_pow_mul_add _ hb,
      if_pos hlow, if_pos hlow, BitVec.testBit_toNat, decide_eq_true (show j < 32 by omega),
      Bool.true_and]
  · by_cases hword : j < 10
    · apply getLsbD_ofNat_of_digit (by omega)
      interval_cases j <;> simp <;> omega
    · have htop : bits.toNat + 2 ^ 8 * prepared.toNat + 2 ^ 9 * dirty.toNat < 2 ^ j :=
        lt_of_lt_of_le (by omega) (Nat.pow_le_pow_right (by decide) (Nat.not_lt.mp hword))
      rw [fstatWord, BitVec.getLsbD_ofNat, Nat.testBit_lt_two_pow htop]
      simp [hlow, show j ≠ 8 by omega, show j ≠ 9 by omega]

/-- The fields of the SLOPE word, the ones that read 0 among them (R45). -/
theorem slopeWord_fields (s : Cuts Sec) :
    fieldOf (slopeWord s) 1 0 = (s.get .lc).toNat ∧ fieldOf (slopeWord s) 5 4 = (s.get .hc).toNat ∧
    fieldOf (slopeWord s) 3 2 = 0 ∧ fieldOf (slopeWord s) 31 6 = 0 := by
  have hl := s.lc.toNat_le_three
  have hh := s.hc.toNat_le_three
  simp only [fieldOf, slopeWord, Cuts.get, BitVec.toNat_ofNat]
  omega

/-- Four section flags fill four bits (R46). -/
theorem secsNat_lt (f : Secs Bool) : secsNat f < 16 := by
  have h0 := f.s0.toNat_le
  have h1 := f.s1.toNat_le
  have h2 := f.s2.toNat_le
  have h3 := f.s3.toNat_le
  simp only [secsNat]
  omega

/-- Flag k of a chain is binary digit k of its flags as a number (R46). -/
theorem secsNat_digit (f : Secs Bool) (k : Sec) :
    secsNat f / 2 ^ k.toNat % 2 = (f.get k).toNat := by
  have h0 := f.s0.toNat_le
  have h1 := f.s1.toNat_le
  have h2 := f.s2.toNat_le
  have h3 := f.s3.toNat_le
  cases k <;> simp only [secsNat, Sec.toNat, Secs.get] <;> omega

/-- The five position flags as a number, LowCut lowest: the low byte of BYPASS (R46). -/
def possNat (p : Poss Bool) : Nat :=
  p.lc.toNat + 2 * p.pk1.toNat + 4 * p.pk2.toNat + 8 * p.pk3.toNat + 16 * p.hc.toNat

/-- The BYPASS word as the three groups of flags it holds (R46). -/
theorem bypassWord_eq (p : Poss Bool) (s : Cuts (Secs Bool)) :
    bypassWord p s =
      BitVec.ofNat 32 (possNat p + 2 ^ 8 * secsNat s.lc + 2 ^ 12 * secsNat s.hc) := rfl

/-- Five position flags fill five bits (R46). -/
theorem possNat_lt (p : Poss Bool) : possNat p < 32 := by
  have h0 := p.lc.toNat_le
  have h1 := p.pk1.toNat_le
  have h2 := p.pk2.toNat_le
  have h3 := p.pk3.toNat_le
  have h4 := p.hc.toNat_le
  simp only [possNat]
  omega

/-- The flag of a position is the binary digit of its number (R46). -/
theorem possNat_digit (p : Poss Bool) (pos : Pos) :
    possNat p / 2 ^ pos.toNat % 2 = (p.get pos).toNat := by
  have h0 := p.lc.toNat_le
  have h1 := p.pk1.toNat_le
  have h2 := p.pk2.toNat_le
  have h3 := p.pk3.toNat_le
  have h4 := p.hc.toNat_le
  rcases pos with c | k
  · cases c <;> simp only [possNat, Pos.toNat, Poss.get] <;> omega
  · cases k <;> simp only [possNat, Pos.toNat, Poss.get] <;> omega

/-- Bit p of BYPASS is PBYP[p] (R46). -/
theorem bypassWord_position (p : Poss Bool) (s : Cuts (Secs Bool)) (pos : Pos) :
    (bypassWord p s).getLsbD pos.toNat = p.get pos := by
  have hpos := pos.toNat_le_four
  have hdigit := possNat_digit p pos
  rw [bypassWord_eq]
  apply getLsbD_ofNat_of_digit (by omega)
  rw [← hdigit]
  interval_cases pos.toNat <;> omega

/-- Bit 8 + k of BYPASS is SBYP[0][k], bit 12 + k is SBYP[4][k] (R46). -/
theorem bypassWord_section (p : Poss Bool) (s : Cuts (Secs Bool)) (k : Sec) :
    (bypassWord p s).getLsbD (8 + k.toNat) = (s.get .lc).get k ∧
    (bypassWord p s).getLsbD (12 + k.toNat) = (s.get .hc).get k := by
  have hp := possNat_lt p
  have hl := secsNat_lt s.lc
  have hh := secsNat_lt s.hc
  have hk := k.toNat_le_three
  have hdl := secsNat_digit s.lc k
  have hdh := secsNat_digit s.hc k
  rw [bypassWord_eq]
  constructor
  · apply getLsbD_ofNat_of_digit (by omega)
    rw [Cuts.get, ← hdl]
    interval_cases k.toNat <;> omega
  · apply getLsbD_ofNat_of_digit (by omega)
    rw [Cuts.get, ← hdh]
    interval_cases k.toNat <;> omega

/-- The bits of BYPASS that stand for no flag read 0 (R46). -/
theorem bypassWord_reserved (p : Poss Bool) (s : Cuts (Secs Bool)) :
    fieldOf (bypassWord p s) 7 5 = 0 ∧ fieldOf (bypassWord p s) 31 16 = 0 := by
  have hp := possNat_lt p
  have hl := secsNat_lt s.lc
  have hh := secsNat_lt s.hc
  simp only [bypassWord_eq, fieldOf, BitVec.toNat_ofNat]
  omega

end Sys2Proof.Machine
end

section
/-! SUPPORT. What RDCSR and WRCSR do, by register (46_system.md R257, R258). -/

namespace Sys2Proof.Machine

/-- RDCSR responds the word of the register and changes nothing else (R257). -/
theorem exec_rdcsr (p : PortId) (r : Csr) (s : State) :
    exec (.rdcsr p r) s = .next (s.withResponse p [⟨csrRead p r s, true, false⟩]) := rfl

/-- A register the port may only read refuses a write with code 2 (R258). -/
theorem exec_wrcsr_of_readOnly {p : PortId} {r : Csr} (h : r.writable p = false) (w : Word)
    (s : State) : exec (.wrcsr p r w) s = .next (takeFault p .field s) := by
  have hw : csrWrite p r w s = .refused .field := by
    rcases csrWrite_cases p r w s with
      ⟨rfl, _⟩ | ⟨rfl, rfl, _⟩ | ⟨rfl, rfl, _⟩ | ⟨rfl, rfl, _⟩ | ⟨_, hw⟩
    case inr.inr.inr.inr => exact hw
    all_goals simp [Csr.writable] at h
  simp only [exec, execWrcsr, hw]

/-- A write of FCLR clears fault bits of its own port (R40). -/
theorem exec_wrcsr_fclr (p : PortId) (w : Word) (s : State) :
    exec (.wrcsr p .fclr w) s = .next (clearFaults p w s) := by
  cases p <;> rfl

/-- A write of CTRL on port V loads ANEN from bit 0 (R43). -/
theorem exec_wrcsr_ctrl (w : Word) (s : State) :
    exec (.wrcsr .v .ctrl w) s = .next { s with anen := w.getLsbD 0 } := rfl

/-- A CSR read of FSTAT, bit by bit (R39). -/
theorem csrRead_fstat_getLsbD (p : PortId) (s : State) (j : Nat) :
    (csrRead p .fstat s).getLsbD j =
      if j < 5 then (s.fstat.get p).getLsbD j
      else if j = 8 then s.prepared
      else if j = 9 then s.dirty
      else false :=
  fstatWord_getLsbD _ _ _ j

end Sys2Proof.Machine
end

section
/-! SUPPORT. Everything each command can do, one lemma for each command whose meaning has branches:
the branch's condition and the answer. -/

namespace Sys2Proof.Machine

/-- PREPARE starts a session or faults (R252). -/
theorem execPrepare_cases (sr : F32) (mb : Word) (s : State) :
    (legalSession s.cfg.n sr mb.toNat = true ∧
      execPrepare sr mb s = .next (startSession sr mb.toNat s)) ∨
    (legalSession s.cfg.n sr mb.toNat = false ∧
      execPrepare sr mb s = .next (takeFault .a .range s)) := by
  unfold execPrepare
  cases legalSession s.cfg.n sr mb.toNat <;> simp

/-- CUTUPD with a set for each active section loads its chain (R143). -/
theorem execCutupd_of_length {o : Sec} {sets : List Coef} (h : sets.length = o.toNat + 1) (c : Cut)
    (s : State) :
    execCutupd c o sets s = .next { s with
      coef := s.coef.setChain c (loadSections (s.coef.chain c) sets)
      sbyp := s.sbyp.set c (slopeBypass o)
      slope := s.slope.set c o } := if_pos h

/-- CUTUPD with another number of sets faults (R97). -/
theorem execCutupd_of_length_ne {o : Sec} {sets : List Coef} (h : sets.length ≠ o.toNat + 1)
    (c : Cut) (s : State) : execCutupd c o sets s = .next (takeFault .a .len s) := if_neg h

/-- PROC faults, or runs its channels and responds their outputs (R160). -/
theorem execProc_cases (nch : ChanCount) (n : BitVec 16) (payload : List F32) (s : State) :
    (payload.length ≠ n.toNat * nch.toNat ∧
      execProc nch n payload s = .next (takeFault .a .len s)) ∨
    (∃ k, payload.length = n.toNat * nch.toNat ∧ procCheck n.toNat s = some k ∧
      execProc nch n payload s = .next (takeFault .a k s)) ∨
    (payload.length = n.toNat * nch.toNat ∧ procCheck n.toNat s = none ∧
      execProc nch n payload s = .next (respond .a (procChannels n.toNat payload nch.chans s).1
        (procChannels n.toNat payload nch.chans s).2)) := by
  unfold execProc
  by_cases hlen : payload.length = n.toNat * nch.toNat
  · cases hcheck : procCheck n.toNat s <;> simp [hlen]
  · simp [hlen]

/-- MAGQ faults, or responds the magnitude (R170). -/
theorem execMagq_cases (f : F32) (s : State) :
    (s.prepared = false ∧ execMagq f s = .next (takeFault .a .notprep s)) ∨
    (s.prepared = true ∧ legalFreq s.num f s.srate = false ∧
      execMagq f s = .next (takeFault .a .range s)) ∨
    (s.prepared = true ∧ legalFreq s.num f s.srate = true ∧
      execMagq f s = .next (respond .a [chainMag s.num s.settings f s.srate] s)) := by
  unfold execMagq
  cases s.prepared
  · simp
  · cases legalFreq s.num f s.srate <;> simp

/-- PULL faults, responds 0, or moves the oldest block and responds 1 (R213). -/
theorem execPull_cases (c : Chan) (s : State) :
    (s.prepared = false ∧ execPull c s = .next (takeFault .v .notprep s)) ∨
    (s.prepared = true ∧ (s.anen = false ∨ pullStep c s = none) ∧
      execPull c s = .next (respond .v [countWord 0] s)) ∨
    (∃ t, s.prepared = true ∧ s.anen = true ∧ pullStep c s = some t ∧
      execPull c s = .next (respond .v [countWord 1] t)) := by
  unfold execPull
  cases s.prepared
  · simp
  · cases s.anen
    · simp
    · cases pullStep c s <;> simp

/-- FFTRUN faults, responds 0, or runs one FFT and responds whether its frame was kept (R228). -/
theorem execFftrun_cases (c : Chan) (s : State) :
    (s.prepared = false ∧ execFftrun c s = .next (takeFault .v .notprep s)) ∨
    (s.prepared = true ∧ s.anen = false ∧ execFftrun c s = .next (respond .v [countWord 0] s)) ∨
    (s.prepared = true ∧ s.anen = true ∧
      execFftrun c s = .next (respond .v [countWord (frameRoom c s).toNat] (fftStep c s))) := by
  unfold execFftrun
  cases s.prepared
  · simp
  · cases s.anen <;> simp

/-- PATHGEN faults, responds 0, or shows the newest frame and responds how many were pending
(R234). -/
theorem execPathgen_cases (c : Chan) (b : Bounds) (s : State) :
    (∃ k, boundsCheck b s = some k ∧ execPathgen c b s = .next (takeFault .v k s)) ∨
    (boundsCheck b s = none ∧ s.anen = false ∧
      execPathgen c b s = .next (respond .v [countWord 0] s)) ∨
    (boundsCheck b s = none ∧ s.anen = true ∧
      execPathgen c b s = .next (respond .v [countWord (s.fq.get c).length] (pathStep c b s))) := by
  unfold execPathgen
  cases boundsCheck b s
  · cases s.anen <;> simp
  · simp

/-- RDFRAME responds words and changes nothing else (R236). -/
theorem execRdframe_eq (c : Chan) (s : State) :
    ∃ ws, execRdframe c s = .next (respond .v ws s) := by
  unfold execRdframe
  cases s.curframe.get c
  · exact ⟨_, rfl⟩
  · exact ⟨_, rfl⟩

/-- TICK faults, does nothing, or runs both channels (R240). -/
theorem execTick_cases (b : Bounds) (s : State) :
    (∃ k, boundsCheck b s = some k ∧ execTick b s = .next (takeFault .v k s)) ∨
    (boundsCheck b s = none ∧ s.anen = false ∧ execTick b s = .next s) ∨
    (boundsCheck b s = none ∧ s.anen = true ∧
      execTick b s = .next (tickChannel .r b (tickChannel .l b s))) := by
  unfold execTick
  cases boundsCheck b s
  · cases s.anen <;> simp
  · simp

/-- Starting a command runs it whole, or puts a PROC or TICK in flight (R75). -/
theorem beginCommand_cases (i : Instr) (s : State) :
    beginCommand i s = exec i s ∨
    (∃ nch n payload, i = .proc nch n payload ∧ payload.length = n.toNat * nch.toNat ∧
      procCheck n.toNat s = none ∧
      beginCommand i s = .next { s with procRun := some (.start nch n.toNat payload) }) ∨
    (∃ b, i = .tick b ∧ boundsCheck b s = none ∧ s.anen = true ∧
      beginCommand i s = .next { s with tickRun := some (.start b .l s.cfg.qcap) }) := by
  cases i
  case proc nch n payload =>
    by_cases h : payload.length = n.toNat * nch.toNat ∧ procCheck n.toNat s = none
    · exact .inr (.inl ⟨nch, n, payload, rfl, h.1, h.2, if_pos h⟩)
    · exact .inl (if_neg h)
  case tick b =>
    by_cases h : boundsCheck b s = none ∧ s.anen = true
    · exact .inr (.inr ⟨b, rfl, h.1, h.2, if_pos h⟩)
    · exact .inl (if_neg h)
  all_goals exact .inl rfl

end Sys2Proof.Machine
end

section
/-! SUPPORT. What each micro-step, and each event that is no command, may change: the state with
those fields replaced. -/

namespace Sys2Proof.Machine

/-- A pull step may change the queues and the rolling buffers (R213, R214). -/
theorem pullStep_frame {c : Chan} {s t : State} (h : pullStep c s = some t) :
    t = { s with queue := t.queue, roll := t.roll } := by
  obtain ⟨blk, rest, _, rfl⟩ := pullStep_eq_some.mp h
  rfl

/-- A channel of a TICK may change the queues and the analyzer's storage (R240). -/
theorem tickChannel_frame (c : Chan) (b : Bounds) (s : State) :
    tickChannel c b s =
      { s with
        queue := (tickChannel c b s).queue
        roll := (tickChannel c b s).roll
        fq := (tickChannel c b s).fq
        curframe := (tickChannel c b s).curframe
        curpath := (tickChannel c b s).curpath } := by
  unfold tickChannel
  rw [pathStep_frame, tickPulls_frame]

/-- A filter micro-step may change the delay records and the PROC in flight (R75). -/
theorem filterMicro_frame (c : Chan) (s : State) :
    filterMicro c s =
      { s with dly := (filterMicro c s).dly, procRun := (filterMicro c s).procRun } := by
  unfold filterMicro
  repeat' split
  all_goals rfl

/-- A push micro-step may change the accumulators, the queues and the PROC in flight (R75). -/
theorem pushMicro_frame (c : Chan) (s : State) :
    pushMicro c s =
      { s with
        acc := (pushMicro c s).acc
        queue := (pushMicro c s).queue
        procRun := (pushMicro c s).procRun } := by
  unfold pushMicro
  repeat' split
  all_goals rfl

/-- The response micro-step may change the response streams and the PROC in flight (R75). -/
theorem respondMicro_frame (s : State) :
    respondMicro s = { s with io := (respondMicro s).io, procRun := (respondMicro s).procRun } := by
  unfold respondMicro
  repeat' split
  all_goals rfl

/-- A micro-step of TICK may change the queues, the analyzer's storage and the TICK in flight
(R240). -/
theorem tickMicro_frame (s : State) :
    tickMicro s =
      { s with
        queue := (tickMicro s).queue
        roll := (tickMicro s).roll
        fq := (tickMicro s).fq
        curframe := (tickMicro s).curframe
        curpath := (tickMicro s).curpath
        tickRun := (tickMicro s).tickRun } := by
  unfold tickMicro
  split
  · rfl
  · next run _ =>
    cases run.phase
    case pull =>
      cases hpull : pullStep run.ch s
      case none => rfl
      case some t =>
        rw [pullStep_frame hpull]
    case fft => rfl
    case path =>
      rw [pathStep_frame]

/-- Accepting a word may change the port streams only (R60). -/
theorem acceptWord_frame (p : PortId) (s : State) :
    acceptWord p s = { s with io := (acceptWord p s).io } := by
  unfold acceptWord
  repeat' split
  all_goals rfl

/-- Taking a packet off a port changes the port streams only (R61). -/
theorem fetch_frame {p : PortId} {s t : State} {packet : List Word}
    (h : fetch p s = some (packet, t)) : t = { s with io := t.io } := by
  obtain ⟨_, _, hr⟩ := Option.map_eq_some_iff.mp h
  cases hr
  rfl

end Sys2Proof.Machine
end

section
/-! SUPPORT. Everything a step can do, by the event it runs. -/

namespace Sys2Proof.Machine

/-- A step waits, or runs the next event (20_memory.md R74). -/
theorem step_cases {s t : State} (h : step s = .next t) :
    (nextEvent s = none ∧ t = s) ∨
    (∃ e es, nextEvent s = some (e, es) ∧ runEvent e { s with sched := es } = .next t) := by
  cases hev : nextEvent s with
  | none =>
    rw [step_of_nextEvent_none hev] at h
    cases h
    exact .inl ⟨rfl, rfl⟩
  | some ev => exact .inr ⟨ev.1, ev.2, rfl, (step_of_nextEvent hev).symm.trans h⟩

end Sys2Proof.Machine
end

section
/-! SUPPORT. SLOPE and the section flags (10_state.md R31, R32): who writes them, and that they
agree along every step. -/

namespace Sys2Proof.Machine

/-- SLOPE and the section flags of t are those of s. -/
def SectionsKept (s t : State) : Prop := t.slope = s.slope ∧ t.sbyp = s.sbyp

theorem SectionsKept.slopesAgree {s t : State} (hkept : SectionsKept s t) (h : SlopesAgree s) :
    SlopesAgree t := by
  obtain ⟨hslope, hsbyp⟩ := hkept
  intro c k
  rw [hslope, hsbyp]
  exact h c k

/-- The flags a slope order gives are 1 exactly above it (R143). -/
@[simp] theorem slopeBypass_get (o k : Sec) : (slopeBypass o).get k = bypassedAt o k := by
  cases k <;> rfl

/-- After reset section 0 is active and the slope orders are 0 (R31, R32, R301). -/
theorem resetWith_slopesAgree (c : Config) : SlopesAgree (State.resetWith c) := by
  intro d k
  cases d <;> cases k <;> rfl

/-- What a command answers keeps them when the state it is known to answer does. -/
theorem SectionsKept.of_next {o : Out State} {s t u : State} (he : o = .next u) (h : o = .next t)
    (hu : SectionsKept s u) : SectionsKept s t := by
  cases he.symm.trans h
  exact hu

/-- A pull step keeps them (R213). -/
theorem pullStep_sectionsKept {c : Chan} {s t : State} (h : pullStep c s = some t) :
    SectionsKept s t := by
  rw [pullStep_frame h]
  exact ⟨rfl, rfl⟩

/-- A path step keeps them (R234). -/
theorem pathStep_sectionsKept (c : Chan) (b : Bounds) (s : State) :
    SectionsKept s (pathStep c b s) := by
  rw [pathStep_frame]
  exact ⟨rfl, rfl⟩

/-- The channels of a TICK keep them (R240). -/
theorem tickChannels_sectionsKept (b : Bounds) (s : State) :
    SectionsKept s (tickChannel .r b (tickChannel .l b s)) := by
  rw [tickChannel_frame, tickChannel_frame .l]
  exact ⟨rfl, rfl⟩

/-- The channels of a PROC keep them (R160). -/
theorem procChannels_sectionsKept (n : Nat) (payload : List F32) (cs : List Chan) (s : State) :
    SectionsKept s (procChannels n payload cs s).2 := by
  rw [procChannels_frame]
  exact ⟨rfl, rfl⟩

/-- A write of a register keeps them (R36, R258). -/
theorem execWrcsr_sectionsKept (p : PortId) (r : Csr) (w : Word) {s t : State}
    (h : execWrcsr p r w s = .next t) : SectionsKept s t := by
  unfold execWrcsr at h
  rcases csrWrite_cases p r w s with
      ⟨_, hw⟩ | ⟨_, _, hw⟩ | ⟨_, _, _, hw⟩ | ⟨_, _, _, hw⟩ | ⟨_, hw⟩ <;>
    rw [hw] at h <;> cases h <;> exact ⟨rfl, rfl⟩

/-- No command but CUTUPD writes SLOPE or a section flag (R32). -/
theorem exec_sectionsKept {i : Instr} (hi : ∀ c o sets, i ≠ .cutupd c o sets) {s t : State}
    (h : exec i s = .next t) : SectionsKept s t := by
  cases i
  case cutupd c o sets => exact absurd rfl (hi c o sets)
  case prepare sr mb =>
    rcases execPrepare_cases sr mb s with ⟨_, he⟩ | ⟨_, he⟩ <;> exact .of_next he h ⟨rfl, rfl⟩
  case proc nch n payload =>
    rcases execProc_cases nch n payload s with ⟨_, he⟩ | ⟨k, _, _, he⟩ | ⟨_, _, he⟩
    · exact .of_next he h ⟨rfl, rfl⟩
    · exact .of_next he h ⟨rfl, rfl⟩
    · exact .of_next he h (procChannels_sectionsKept n.toNat payload nch.chans s)
  case magq f =>
    rcases execMagq_cases f s with ⟨_, he⟩ | ⟨_, _, he⟩ | ⟨_, _, he⟩ <;>
      exact .of_next he h ⟨rfl, rfl⟩
  case wrcsr p r w => exact execWrcsr_sectionsKept p r w h
  case pull c =>
    rcases execPull_cases c s with ⟨_, he⟩ | ⟨_, _, he⟩ | ⟨u, _, _, hpull, he⟩
    · exact .of_next he h ⟨rfl, rfl⟩
    · exact .of_next he h ⟨rfl, rfl⟩
    · have hkept : SectionsKept s u := pullStep_sectionsKept hpull
      exact .of_next he h hkept
  case fftrun c =>
    rcases execFftrun_cases c s with ⟨_, he⟩ | ⟨_, _, he⟩ | ⟨_, _, he⟩ <;>
      exact .of_next he h ⟨rfl, rfl⟩
  case pathgen c b =>
    rcases execPathgen_cases c b s with ⟨k, _, he⟩ | ⟨_, _, he⟩ | ⟨_, _, he⟩
    · exact .of_next he h ⟨rfl, rfl⟩
    · exact .of_next he h ⟨rfl, rfl⟩
    · exact .of_next he h (pathStep_sectionsKept c b s)
  case rdframe c =>
    obtain ⟨ws, he⟩ := execRdframe_eq c s
    exact .of_next he h ⟨rfl, rfl⟩
  case tick b =>
    rcases execTick_cases b s with ⟨k, _, he⟩ | ⟨_, _, he⟩ | ⟨_, _, he⟩
    · exact .of_next he h ⟨rfl, rfl⟩
    · exact .of_next he h ⟨rfl, rfl⟩
    · exact .of_next he h (tickChannels_sectionsKept b s)
  all_goals
    cases h
    exact ⟨rfl, rfl⟩

/-- CUTUPD sets the flags of its chain from the slope order it loads (R143). -/
theorem cutupd_slopesAgree {c : Cut} {o : Sec} {sets : List Coef} {s t : State} (hs : SlopesAgree s)
    (h : execCutupd c o sets s = .next t) : SlopesAgree t := by
  by_cases hlen : sets.length = o.toNat + 1
  · cases (execCutupd_of_length hlen c s).symm.trans h
    intro d k
    by_cases hd : d = c
    · subst hd
      simp
    · simpa only [Cuts.get_set_ne _ _ hd] using hs d k
  · cases (execCutupd_of_length_ne hlen c s).symm.trans h
    exact hs

/-- Every command keeps the section flags in step with the slope orders (R32). -/
theorem exec_slopesAgree (i : Instr) {s t : State} (hs : SlopesAgree s) (h : exec i s = .next t) :
    SlopesAgree t := by
  by_cases hi : ∃ c o sets, i = .cutupd c o sets
  · obtain ⟨c, o, sets, rfl⟩ := hi
    exact cutupd_slopesAgree hs h
  · exact (exec_sectionsKept (fun c o sets e => hi ⟨c, o, sets, e⟩) h).slopesAgree hs

/-- So does every command run as its first micro-step only (R75). -/
theorem beginCommand_slopesAgree (i : Instr) {s t : State} (hs : SlopesAgree s)
    (h : beginCommand i s = .next t) : SlopesAgree t := by
  rcases beginCommand_cases i s with he | ⟨nch, n, payload, _, _, _, he⟩ | ⟨b, _, _, _, he⟩
  · exact exec_slopesAgree i hs (he.symm.trans h)
  · cases he.symm.trans h
    exact hs
  · cases he.symm.trans h
    exact hs

/-- Serving a port keeps the agreement when running a command does. -/
theorem serve_slopesAgree {run : Instr → State → Out State}
    (hrun : ∀ i {s t : State}, SlopesAgree s → run i s = .next t → SlopesAgree t) {p : PortId}
    {s t : State} (hs : SlopesAgree s) (h : serve run p s = .next t) : SlopesAgree t := by
  rcases serve_cases run p s with
    he | ⟨packet, u, i, _, hfetch, _, he⟩ | ⟨packet, u, k, _, hfetch, _, he⟩
  · cases he.symm.trans h
    exact hs
  · have hu : SlopesAgree u := by
      rw [fetch_frame hfetch]
      exact hs
    exact hrun i hu (he.symm.trans h)
  · cases he.symm.trans h
    rw [fetch_frame hfetch]
    exact hs

/-- Every event keeps the section flags in step with the slope orders (R32). -/
theorem runEvent_slopesAgree (e : Event) {s t : State} (hs : SlopesAgree s)
    (h : runEvent e s = .next t) : SlopesAgree t := by
  cases e
  case command p => exact serve_slopesAgree exec_slopesAgree hs h
  case start p => exact serve_slopesAgree beginCommand_slopesAgree hs h
  case reset =>
    cases h
    exact resetWith_slopesAgree s.cfg
  all_goals cases h
  case filter c =>
    rw [filterMicro_frame]
    exact hs
  case push c =>
    rw [pushMicro_frame]
    exact hs
  case respond =>
    rw [respondMicro_frame]
    exact hs
  case tick =>
    rw [tickMicro_frame]
    exact hs
  case accept p =>
    rw [acceptWord_frame]
    exact hs
  all_goals exact hs

/-- Every step keeps the section flags in step with the slope orders (R32). -/
theorem step_slopesAgree {s t : State} (hs : SlopesAgree s) (h : step s = .next t) :
    SlopesAgree t := by
  rcases step_cases h with ⟨_, rfl⟩ | ⟨e, es, _, hrun⟩
  · exact hs
  · have hsched : SlopesAgree { s with sched := es } := hs
    exact runEvent_slopesAgree e hsched hrun

end Sys2Proof.Machine
end

section
/-! Obligations about the control and status registers (10_state.md, section 5). -/

open Sys2Proof Sys2Proof.Machine

/-- Settles O19: a write of FCLR is `clearFaults`, whose bits are `faultClear_getLsbD`. -/
theorem fclrWritesOneToClear : Obligations.FclrWritesOneToClear := by
  intro p w s
  refine ⟨clearFaults p w s, exec_wrcsr_fclr p w s, fun k hk => ?_, ?_, rfl⟩
  · rw [clearFaults_fstat, Ports.get_set_same, faultClear_getLsbD w _ hk]
  · rw [clearFaults_fstat, Ports.get_set_same]
    rfl

/-- Settles O24: the bits are `csrRead_fstat_getLsbD`, the bit a fault sets `faultSet_getLsbD`. -/
theorem fstatBits : Obligations.FstatBits := by
  refine ⟨csrRead_fstat_getLsbD, fun p k s => ?_, fun p w s t => ⟨fun h => ?_, ?_⟩, fun p => ?_⟩
  · have hk := k.toNat_bounds
    have hlt : k.toNat - 1 < 5 := by omega
    have hcode : k.toNat - 1 + 1 = k.toNat := by omega
    rw [csrRead_fstat_getLsbD, if_pos hlt, takeFault_fstat, Ports.get_set_same,
      faultSet_getLsbD k _ hlt]
    simp [hcode]
  · rw [exec_rdcsr] at h
    cases h
    rfl
  · exact exec_wrcsr_of_readOnly ((Csr.writable_eq_false_iff p _).mpr (by simp)) w s
  · cases p <;> rfl

/-- Settles O26, from the fields of the SLOPE word and the three groups of flags in BYPASS. -/
theorem slopeAndBypassBits : Obligations.SlopeAndBypassBits := by
  refine ⟨fun p s => ?_, fun p w s => ⟨?_, ?_⟩, fun p => ⟨rfl, rfl⟩⟩
  · obtain ⟨hlow, hhigh, hgap, htop⟩ := slopeWord_fields s.slope
    obtain ⟨hmid, hrest⟩ := bypassWord_reserved s.pbyp s.sbyp
    exact ⟨hlow, hhigh, hgap, htop, bypassWord_position s.pbyp s.sbyp,
      fun k => (bypassWord_section s.pbyp s.sbyp k).1,
      fun k => (bypassWord_section s.pbyp s.sbyp k).2, hmid, hrest⟩
  · exact exec_wrcsr_of_readOnly ((Csr.writable_eq_false_iff p _).mpr (by simp)) w s
  · exact exec_wrcsr_of_readOnly ((Csr.writable_eq_false_iff p _).mpr (by simp)) w s

/-- Settles O23: each register's word is its arm of `csrRead`; the hardwired ones are read only. -/
theorem rdcsrRespondsRegister : Obligations.RdcsrRespondsRegister := by
  intro p s
  refine ⟨fun r => exec_rdcsr p r s, rfl, rfl, rfl, rfl, rfl, rfl, rfl, fun r w hr => ?_⟩
  apply exec_wrcsr_of_readOnly
  rcases hr with rfl | rfl | rfl | rfl <;>
    exact (Csr.writable_eq_false_iff p _).mpr (by simp)

/-- Settles O25: a write on port V loads bit 0, and `ctrlWord` shows that bit alone. -/
theorem ctrlHoldsAnen : Obligations.CtrlHoldsAnen := by
  refine ⟨fun w s => ⟨exec_wrcsr_ctrl w s, exec_wrcsr_of_readOnly rfl w s⟩, fun p s => ?_,
    fun p => rfl⟩
  show ctrlWord s.anen = _
  cases s.anen <;> rfl

end

section
/-! Obligations about SLOPE and the section flags (10_state.md, section 2). -/

open Sys2Proof Sys2Proof.Machine

/-- Settles O13: reset agrees, CUTUPD loads its chain alone, no other command writes the slope
orders, and every event keeps the agreement. -/
theorem sectionFlagsFollowSlope : Obligations.SectionFlagsFollowSlope := by
  refine ⟨fun c k => ⟨resetWith_slopesAgree c, ?_⟩, fun s t k o sets hlen h => ?_,
    fun i s t hi h => (exec_sectionsKept hi h).1, fun s t => step_slopesAgree⟩
  · cases k <;> rfl
  · cases (execCutupd_of_length hlen k s).symm.trans h
    exact ⟨Cuts.get_set_same _ _ _, fun d hd => Cuts.get_set_ne _ _ hd⟩

end

section
/-! SUPPORT. The events that happen by default (20_memory.md R74, R303; log 8): the block resets
only where the agenda says so. -/

namespace Sys2Proof.Machine

/-- A lane goes on with a push or a filter micro-step, or is finished (R160). -/
theorem Lane.nextEvent_cases (c : Chan) (ln : Lane) :
    ln.nextEvent c = some (.push c) ∨ ln.nextEvent c = some (.filter c) ∨ ln.nextEvent c = none := by
  unfold Lane.nextEvent
  split_ifs <;> simp

/-- The micro-step a PROC in flight makes next is a filter, a push or the response (R160). -/
theorem ProcRun.nextEvent_isProcStep (r : ProcRun) : r.nextEvent.isProcStep = true := by
  unfold ProcRun.nextEvent
  rcases r.l.nextEvent_cases .l with hl | hl | hl <;> rw [hl]
  · rfl
  · rfl
  · cases r.r with
    | none => rfl
    | some ln => rcases ln.nextEvent_cases .r with hr | hr | hr <;> simp [hr, Event.isProcStep]

/-- A default event is a micro-step of a command in flight, or a port's next packet (R303). -/
theorem defaultEvent_cases {s : State} {e : Event} (h : defaultEvent s = some e) :
    e.isProcStep = true ∨ e = .tick ∨ ∃ p, e = .command p := by
  unfold defaultEvent at h
  split at h
  · next run _ =>
    cases h
    exact .inl run.nextEvent_isProcStep
  · split_ifs at h <;> cases h
    · exact .inr (.inl rfl)
    · exact .inr (.inr ⟨.a, rfl⟩)
    · exact .inr (.inr ⟨.v, rfl⟩)

/-- Only the agenda resets the block (R300). -/
theorem sched_head_of_nextEvent_reset {s : State} {es : List Event}
    (h : nextEvent s = some (.reset, es)) : s.sched.head? = some .reset := by
  unfold nextEvent at h
  split at h
  · next hsched =>
    cases h
    rw [hsched]
    rfl
  · obtain ⟨e, hdefault, he⟩ := Option.map_eq_some_iff.mp h
    cases he
    rcases defaultEvent_cases hdefault with hproc | htick | ⟨p, hp⟩
    · cases hproc
    · cases htick
    · cases hp

/-- A `param_changed` event named by the agenda is DIRTY <- 1 and nothing else (R81, R262). -/
theorem step_paramChanged {s : State} {es : List Event} (h : s.sched = .paramChanged :: es) :
    step s = .next { s with dirty := true, sched := es } := by
  have hnext : nextEvent s = some (.paramChanged, es) := by rw [nextEvent, h]
  exact step_of_nextEvent hnext

end Sys2Proof.Machine
end

section
/-! SUPPORT. DIRTY (20_memory.md R81): every operation but TCDIRTY and reset leaves a set DIRTY set,
and TCDIRTY answers it. -/

namespace Sys2Proof.Machine

@[simp] theorem pathStep_dirty (c : Chan) (b : Bounds) (s : State) :
    (pathStep c b s).dirty = s.dirty := by
  rw [pathStep_frame]

@[simp] theorem tickChannel_dirty (c : Chan) (b : Bounds) (s : State) :
    (tickChannel c b s).dirty = s.dirty := by
  rw [tickChannel_frame]

@[simp] theorem procChannels_dirty (n : Nat) (payload : List F32) (cs : List Chan) (s : State) :
    (procChannels n payload cs s).2.dirty = s.dirty := by
  rw [procChannels_frame]

@[simp] theorem filterMicro_dirty (c : Chan) (s : State) : (filterMicro c s).dirty = s.dirty := by
  rw [filterMicro_frame]

@[simp] theorem pushMicro_dirty (c : Chan) (s : State) : (pushMicro c s).dirty = s.dirty := by
  rw [pushMicro_frame]

@[simp] theorem respondMicro_dirty (s : State) : (respondMicro s).dirty = s.dirty := by
  rw [respondMicro_frame]

@[simp] theorem tickMicro_dirty (s : State) : (tickMicro s).dirty = s.dirty := by
  rw [tickMicro_frame]

@[simp] theorem acceptWord_dirty (p : PortId) (s : State) : (acceptWord p s).dirty = s.dirty := by
  rw [acceptWord_frame]

theorem pullStep_dirty {c : Chan} {s t : State} (h : pullStep c s = some t) : t.dirty = s.dirty := by
  rw [pullStep_frame h]

theorem fetch_dirty {p : PortId} {s t : State} {packet : List Word}
    (h : fetch p s = some (packet, t)) : t.dirty = s.dirty := by
  rw [fetch_frame h]

/-- Taking a packet off a port leaves the response words of both ports (R61). -/
theorem fetch_rsp {p : PortId} {s t : State} {packet : List Word}
    (h : fetch p s = some (packet, t)) (q : PortId) : (t.io.get q).rsp = (s.io.get q).rsp := by
  obtain ⟨_, _, ht⟩ := Option.map_eq_some_iff.mp h
  cases ht
  cases p <;> cases q <;> rfl

/-- TCDIRTY responds the old DIRTY on port V and clears it (R81, R263). -/
theorem exec_tcdirty (s : State) :
    exec .tcdirty s = .next
      { s.withResponse .v [⟨if s.dirty then 1#32 else 0#32, true, false⟩] with dirty := false } := by
  have hword : BitVec.ofNat 32 s.dirty.toNat = if s.dirty then 1#32 else 0#32 := by
    cases s.dirty <;> rfl
  rw [← hword]
  rfl

/-- A write of a register leaves DIRTY as it was (R36, R258). -/
theorem execWrcsr_dirty (p : PortId) (r : Csr) (w : Word) (s : State) :
    ∃ t, execWrcsr p r w s = .next t ∧ t.dirty = s.dirty := by
  unfold execWrcsr
  rcases csrWrite_cases p r w s with
      ⟨_, hw⟩ | ⟨_, _, hw⟩ | ⟨_, _, _, hw⟩ | ⟨_, _, _, hw⟩ | ⟨_, hw⟩ <;>
    rw [hw] <;> exact ⟨_, rfl, rfl⟩

/-- Every command but TCDIRTY leaves DIRTY as it was. -/
theorem exec_dirty {i : Instr} (hi : i ≠ .tcdirty) (s : State) :
    ∃ t, exec i s = .next t ∧ t.dirty = s.dirty := by
  cases i
  case tcdirty => exact absurd rfl hi
  case prepare sr mb =>
    rcases execPrepare_cases sr mb s with ⟨_, he⟩ | ⟨_, he⟩ <;> exact ⟨_, he, rfl⟩
  case cutupd c o sets =>
    by_cases hlen : sets.length = o.toNat + 1
    · exact ⟨_, execCutupd_of_length hlen c s, rfl⟩
    · exact ⟨_, execCutupd_of_length_ne hlen c s, rfl⟩
  case proc nch n payload =>
    rcases execProc_cases nch n payload s with ⟨_, he⟩ | ⟨_, _, _, he⟩ | ⟨_, _, he⟩ <;>
      exact ⟨_, he, by simp⟩
  case magq f =>
    rcases execMagq_cases f s with ⟨_, he⟩ | ⟨_, _, he⟩ | ⟨_, _, he⟩ <;> exact ⟨_, he, rfl⟩
  case wrcsr p r w => exact execWrcsr_dirty p r w s
  case pull c =>
    rcases execPull_cases c s with ⟨_, he⟩ | ⟨_, _, he⟩ | ⟨u, _, _, hpull, he⟩
    · exact ⟨_, he, rfl⟩
    · exact ⟨_, he, rfl⟩
    · have hu : u.dirty = s.dirty := pullStep_dirty hpull
      exact ⟨_, he, hu⟩
  case fftrun c =>
    rcases execFftrun_cases c s with ⟨_, he⟩ | ⟨_, _, he⟩ | ⟨_, _, he⟩ <;> exact ⟨_, he, rfl⟩
  case pathgen c b =>
    rcases execPathgen_cases c b s with ⟨_, _, he⟩ | ⟨_, _, he⟩ | ⟨_, _, he⟩ <;>
      exact ⟨_, he, by simp⟩
  case rdframe c =>
    obtain ⟨ws, he⟩ := execRdframe_eq c s
    exact ⟨_, he, rfl⟩
  case tick b =>
    rcases execTick_cases b s with ⟨_, _, he⟩ | ⟨_, _, he⟩ | ⟨_, _, he⟩ <;>
      exact ⟨_, he, by simp⟩
  all_goals exact ⟨_, rfl, rfl⟩

/-- DIRTY is set in t, or it was cleared with a response 1 on port V. -/
def DirtyKeptOrAnswered (s t : State) : Prop :=
  t.dirty = true ∨ (t.dirty = false ∧ t.io.v.rsp = s.io.v.rsp ++ [⟨1#32, true, false⟩])

/-- Every command leaves a set DIRTY set or answers it. -/
theorem exec_dirtyKeptOrAnswered (i : Instr) {s t : State} (hd : s.dirty = true)
    (h : exec i s = .next t) : DirtyKeptOrAnswered s t := by
  by_cases hi : i = .tcdirty
  · subst hi
    cases (exec_tcdirty s).symm.trans h
    rw [hd]
    exact .inr ⟨rfl, rfl⟩
  · obtain ⟨u, he, hu⟩ := exec_dirty hi s
    cases he.symm.trans h
    exact .inl (hu.trans hd)

/-- So does every command run as its first micro-step only (R75). -/
theorem beginCommand_dirtyKeptOrAnswered (i : Instr) {s t : State} (hd : s.dirty = true)
    (h : beginCommand i s = .next t) : DirtyKeptOrAnswered s t := by
  rcases beginCommand_cases i s with he | ⟨_, _, _, _, _, _, he⟩ | ⟨_, _, _, _, he⟩
  · exact exec_dirtyKeptOrAnswered i hd (he.symm.trans h)
  · cases he.symm.trans h
    exact .inl hd
  · cases he.symm.trans h
    exact .inl hd

/-- Serving a port leaves a set DIRTY set or answers it when running a command does: taking the
packet off the port touches neither DIRTY nor the responses. -/
theorem serve_dirtyKeptOrAnswered {run : Instr → State → Out State}
    (hrun : ∀ i {s t : State}, s.dirty = true → run i s = .next t → DirtyKeptOrAnswered s t)
    {p : PortId} {s t : State} (hd : s.dirty = true) (h : serve run p s = .next t) :
    DirtyKeptOrAnswered s t := by
  rcases serve_cases run p s with
    he | ⟨packet, u, i, _, hfetch, _, he⟩ | ⟨packet, u, k, _, hfetch, _, he⟩
  · cases he.symm.trans h
    exact .inl hd
  · have hu : u.dirty = true := (fetch_dirty hfetch).trans hd
    have hrsp : u.io.v.rsp = s.io.v.rsp := fetch_rsp hfetch .v
    have hkept := hrun i hu (he.symm.trans h)
    rwa [DirtyKeptOrAnswered, hrsp] at hkept
  · cases he.symm.trans h
    exact .inl ((fetch_dirty hfetch).trans hd)

/-- Every event but reset leaves a set DIRTY set or answers it (R81). -/
theorem runEvent_dirtyKeptOrAnswered {e : Event} (he : e ≠ .reset) {s t : State}
    (hd : s.dirty = true) (h : runEvent e s = .next t) : DirtyKeptOrAnswered s t := by
  cases e
  case command p => exact serve_dirtyKeptOrAnswered exec_dirtyKeptOrAnswered hd h
  case start p => exact serve_dirtyKeptOrAnswered beginCommand_dirtyKeptOrAnswered hd h
  case reset => exact absurd rfl he
  all_goals
    cases h
    exact .inl (by simp [hd])

/-- A step that leaves neither a set DIRTY nor its answer is the agenda's reset (R81). -/
theorem step_dirtyKeptOrAnswered {s t : State} (hd : s.dirty = true) (h : step s = .next t) :
    s.sched.head? = some .reset ∨ DirtyKeptOrAnswered s t := by
  rcases step_cases h with ⟨_, rfl⟩ | ⟨e, es, hnext, hrun⟩
  · exact .inr (.inl hd)
  · by_cases he : e = .reset
    · subst he
      exact .inl (sched_head_of_nextEvent_reset hnext)
    · have hsched : ({ s with sched := es } : State).dirty = true := hd
      have hkept := runEvent_dirtyKeptOrAnswered he hsched hrun
      exact .inr hkept

end Sys2Proof.Machine
end

section
/-! The obligation about DIRTY (20_memory.md R81). -/

open Sys2Proof Sys2Proof.Machine

/-- Settles O28: the event is `step_paramChanged`, the command `exec_tcdirty`, and a step that is no
reset keeps or answers DIRTY. -/
theorem dirtyIsNeverLost : Obligations.DirtyIsNeverLost := by
  refine ⟨fun s es => step_paramChanged, exec_tcdirty, fun s t hd h => ?_⟩
  rcases step_dirtyKeptOrAnswered hd h with hreset | hset | hanswered
  · exact .inr (.inl hreset)
  · exact .inl hset
  · exact .inr (.inr hanswered)

end

section
/-! SUPPORT. The header numbers that name an operand (30_encoding.md R93 to R95, R99), and the
payload words that carry a record (R98). -/

namespace Sys2Proof

/-- A field of k bits holds a number below 2^k (R9). -/
theorem fieldOf_lt (w : Word) (hi lo : Nat) : fieldOf w hi lo < 2 ^ (hi + 1 - lo) :=
  Nat.mod_lt _ (Nat.two_pow_pos _)

theorem Sec.exists_ofNat? : ∀ n ≤ 3, ∃ k, Sec.ofNat? n = some k ∧ k.toNat = n
  | 0, _ => ⟨.s0, rfl, rfl⟩
  | 1, _ => ⟨.s1, rfl, rfl⟩
  | 2, _ => ⟨.s2, rfl, rfl⟩
  | 3, _ => ⟨.s3, rfl, rfl⟩

/-- The numbers of the two legal channel counts; 0 and 3 are refused (R99). -/
theorem ChanCount.exists_ofNat? {n : Nat} (hlt : n < 4) (h0 : n ≠ 0) (h3 : n ≠ 3) :
    ∃ c, ChanCount.ofNat? n = some c ∧ c.toNat = n := by
  obtain rfl | rfl : n = 1 ∨ n = 2 := by omega
  · exact ⟨.mono, rfl, rfl⟩
  · exact ⟨.stereo, rfl, rfl⟩

theorem Pos.ofNat?_isSome : ∀ n ≤ 4, (Pos.ofNat? n).isSome := by decide

theorem Cut.ofNat?_isSome {n : Nat} (h : n = 0 ∨ n = 4) : (Cut.ofNat? n).isSome := by
  rcases h with rfl | rfl <;> rfl

/-- The pairs in ST: a peak position has section 0 only (R21, R99). -/
theorem Stage.ofNats?_isSome : ∀ pos ≤ 4, ∀ sec ≤ 3, (1 ≤ pos → pos ≤ 3 → sec = 0) →
    (Stage.ofNats? pos sec).isSome := by decide

theorem Chan.ofNat?_isSome : ∀ n < 2, (Chan.ofNat? n).isSome := by decide

theorem flagOfNat?_isSome : ∀ n < 2, (flagOfNat? n).isSome := by decide

theorem Csr.ofAddr?_isSome : ∀ n ≤ 0xB, (Csr.ofAddr? n).isSome := by decide

/-- Five words are the words of a coefficient set (R98). -/
theorem Coef.exists_words {ws : List Word} (h : ws.length = 5) : ∃ k : Coef, ws = k.words :=
  match ws, h with
  | [b0, b1, b2, a1, a2], _ => ⟨⟨b0, b1, b2, a1, a2⟩, rfl⟩

/-- Four words are the words of display bounds (R234). -/
theorem Bounds.exists_words {ws : List Word} (h : ws.length = 4) : ∃ b : Bounds, ws = b.words :=
  match ws, h with
  | [left, top, width, height], _ => ⟨⟨left, top, width, height⟩, rfl⟩

@[simp] theorem Coef.listOfWords?_words_append (k : Coef) (ws : List Word) :
    Coef.listOfWords? (k.words ++ ws) = (Coef.listOfWords? ws).map (k :: ·) := rfl

/-- Five words for each of n sections are n coefficient sets (R98, R143). -/
theorem Coef.listOfWords?_isSome (n : Nat) :
    ∀ ws : List Word, ws.length = 5 * n → (Coef.listOfWords? ws).isSome := by
  induction n with
  | zero =>
    intro ws h
    obtain rfl := List.length_eq_zero_iff.mp h
    rfl
  | succ n ih =>
    intro ws h
    obtain ⟨k, hk⟩ := Coef.exists_words (ws := ws.take 5) (by rw [List.length_take]; omega)
    have hrest := ih (ws.drop 5) (by rw [List.length_drop]; omega)
    rw [← List.take_append_drop 5 ws, hk, listOfWords?_words_append, Option.isSome_map]
    exact hrest

end Sys2Proof
end

section
/-! SUPPORT. A header without a field fault is decoded, to a command head whose payload length is the
one of the opcode map (30_encoding.md R97, R99). -/

namespace Sys2Proof

open Machine

/-- The fields name a stage of ST (R99). -/
def StageFields (h : Word) : Prop :=
  posField h ≤ 4 ∧ secField h ≤ 3 ∧ (1 ≤ posField h → posField h ≤ 3 → secField h = 0)

/-- R99's table in the decoder's terms: what a command's header fields may hold. -/
def LegalFields (p : PortId) (op : Op) (h : Word) : Prop :=
  match op with
  | .nop | .prepare | .magq | .tick | .tcdirty => zeroFieldsZ h = true
  | .setcoef | .rdcoef =>
    (zeroFieldsS h && chField h == 0 && flagField h == 0) = true ∧ StageFields h
  | .setbyp => (zeroFieldsS h && secField h == 0 && chField h == 0) = true ∧ posField h ≤ 4
  | .cutupd =>
    (zeroFieldsS h && chField h == 0 && flagField h == 0) = true ∧
      (posField h = 0 ∨ posField h = 4) ∧ secField h ≤ 3
  | .rddly => (zeroFieldsS h && flagField h == 0) = true ∧ StageFields h
  | .pull | .fftrun | .pathgen | .rdframe | .rdpath =>
    (zeroFieldsS h && posField h == 0 && secField h == 0 && flagField h == 0) = true
  | .proc => zeroFieldsB h = true ∧ fieldOf h 17 16 ≠ 0 ∧ fieldOf h 17 16 ≠ 3
  | .rdcsr => zeroFieldsC h = true ∧ fieldOf h 15 0 ≤ 0xB
  | .wrcsr =>
    zeroFieldsC h = true ∧
      (fieldOf h 15 0 = 2 ∨ p = .v ∧ (fieldOf h 15 0 = 5 ∨ fieldOf h 15 0 = 6))

/-- The decoder's terms say what the table of faults says (R99, 60_exceptions.md R276). -/
theorem legalFields_iff (p : PortId) (op : Op) (h : Word) :
    LegalFields p op h ↔ fieldFault p op h = false := by
  cases op
  case nop | prepare | magq | tick | tcdirty => simp [LegalFields, fieldFault, zeroFieldsZ]
  case setcoef | rdcoef | rddly =>
    simp [LegalFields, StageFields, fieldFault, zeroFieldsS, posField, secField, chField, flagField,
      and_assoc, and_comm, and_left_comm]
  case setbyp | cutupd | pull | fftrun | pathgen | rdframe | rdpath =>
    simp [LegalFields, fieldFault, zeroFieldsS, posField, secField, chField, flagField,
      or_iff_not_imp_left, and_assoc, and_comm, and_left_comm]
  case proc => simp [LegalFields, fieldFault, zeroFieldsB, and_assoc]
  case rdcsr => simp [LegalFields, fieldFault, zeroFieldsC]
  case wrcsr => cases p <;> simp [LegalFields, fieldFault, zeroFieldsC, or_iff_not_imp_left]

variable {p : PortId} {h : Word}

theorem stageFields_name (hst : StageFields h) :
    ∃ st, Stage.ofNats? (posField h) (secField h) = some st := by
  obtain ⟨hpos, hsec, hpeak⟩ := hst
  exact Option.isSome_iff_exists.mp (Stage.ofNats?_isSome _ hpos _ hsec hpeak)

theorem chanField_name (h : Word) : ∃ ch, Chan.ofNat? (chField h) = some ch :=
  Option.isSome_iff_exists.mp (Chan.ofNat?_isSome _ (fieldOf_lt h 8 8))

/-- The fields RDCSR may have name a register (R36, R99). -/
theorem csrOperand?_of_legal (hl : LegalFields p .rdcsr h) : ∃ r, csrOperand? h = some r := by
  obtain ⟨hzero, haddr⟩ := hl
  obtain ⟨r, hr⟩ := Option.isSome_iff_exists.mp (Csr.ofAddr?_isSome _ haddr)
  exact ⟨r, (if_pos hzero).trans hr⟩

/-- The registers WRCSR may name are ones the port may write (R99, R258). -/
theorem csrOperand?_writable (hl : LegalFields p .wrcsr h) :
    ∃ r, csrOperand? h = some r ∧ r.writable p = true := by
  obtain ⟨hzero, haddr⟩ := hl
  rw [csrOperand?, if_pos hzero]
  rcases haddr with haddr | ⟨rfl, haddr | haddr⟩
  · exact ⟨.fclr, by rw [haddr]; rfl, by cases p <;> rfl⟩
  · exact ⟨.ctrl, by rw [haddr]; rfl, rfl⟩
  · exact ⟨.floor, by rw [haddr]; rfl, rfl⟩

theorem headOf?_setbyp (hl : LegalFields p .setbyp h) :
    ∃ pos flag, headOf? p .setbyp h = some (.setbyp pos flag) := by
  obtain ⟨hguard, hpos⟩ := hl
  obtain ⟨pos, hpos⟩ := Option.isSome_iff_exists.mp (Pos.ofNat?_isSome _ hpos)
  obtain ⟨flag, hflag⟩ : ∃ flag, flagOfNat? (flagField h) = some flag :=
    Option.isSome_iff_exists.mp (flagOfNat?_isSome _ (fieldOf_lt h 0 0))
  exact ⟨pos, flag, (if_pos hguard).trans (by rw [hpos, hflag])⟩

/-- The slope order is the number in the sec field (R97). -/
theorem headOf?_cutupd (hl : LegalFields p .cutupd h) :
    ∃ cut slope, headOf? p .cutupd h = some (.cutupd cut slope) ∧ slope.toNat = fieldOf h 19 16 := by
  obtain ⟨hguard, hcut, hsec⟩ := hl
  obtain ⟨cut, hcut⟩ := Option.isSome_iff_exists.mp (Cut.ofNat?_isSome hcut)
  obtain ⟨slope, hslope, hnum⟩ := Sec.exists_ofNat? _ hsec
  exact ⟨cut, slope, (if_pos hguard).trans (by rw [hcut, hslope]), hnum⟩

/-- The block's size is the numbers in the n and nch fields (R97). -/
theorem headOf?_proc (hl : LegalFields p .proc h) :
    ∃ nch n, headOf? p .proc h = some (.proc nch n) ∧ n.toNat = fieldOf h 15 0 ∧
      nch.toNat = fieldOf h 17 16 := by
  obtain ⟨hzero, h0, h3⟩ := hl
  obtain ⟨nch, hnch, hnum⟩ := ChanCount.exists_ofNat? (fieldOf_lt h 17 16) h0 h3
  have hn : (BitVec.ofNat 16 (fieldOf h 15 0)).toNat = fieldOf h 15 0 :=
    (BitVec.toNat_ofNat _ _).trans (Nat.mod_eq_of_lt (fieldOf_lt h 15 0))
  exact ⟨nch, _, (if_pos hzero).trans (congrArg (Option.map _) hnch), hn, hnum⟩

theorem headOf?_rddly (hl : LegalFields p .rddly h) :
    ∃ st ch, headOf? p .rddly h = some (.rddly st ch) := by
  obtain ⟨hguard, hst⟩ := hl
  obtain ⟨st, hst⟩ := stageFields_name hst
  obtain ⟨ch, hch⟩ := chanField_name h
  exact ⟨st, ch, (if_pos hguard).trans (by rw [hst, hch])⟩

theorem headOf?_wrcsr (hl : LegalFields p .wrcsr h) :
    ∃ r, headOf? p .wrcsr h = some (.wrcsr p r) := by
  obtain ⟨r, hr, hwritable⟩ := csrOperand?_writable hl
  refine ⟨r, ?_⟩
  rw [headOf?, hr]
  exact if_pos hwritable

/-- Legal fields are a command head, and that head requires the payload length of the opcode map
(R97, R99). -/
theorem headOf?_paylen {op : Op} (hl : LegalFields p op h) :
    ∃ hd, headOf? p op h = some hd ∧ hd.paylen = paylenOf op h := by
  cases op
  case nop | prepare | magq | tick | tcdirty => exact ⟨_, if_pos hl, rfl⟩
  case setcoef | rdcoef =>
    obtain ⟨hguard, hst⟩ := hl
    obtain ⟨st, hst⟩ := stageFields_name hst
    exact ⟨_, congrArg (Option.map _) ((if_pos hguard).trans hst), rfl⟩
  case pull | fftrun | pathgen | rdframe | rdpath =>
    obtain ⟨ch, hch⟩ := chanField_name h
    exact ⟨_, congrArg (Option.map _) ((if_pos hl).trans hch), rfl⟩
  case rdcsr =>
    obtain ⟨r, hr⟩ := csrOperand?_of_legal hl
    exact ⟨_, congrArg (Option.map _) hr, rfl⟩
  case wrcsr =>
    obtain ⟨r, hhead⟩ := headOf?_wrcsr hl
    exact ⟨_, hhead, rfl⟩
  case setbyp =>
    obtain ⟨pos, flag, hhead⟩ := headOf?_setbyp hl
    exact ⟨_, hhead, rfl⟩
  case cutupd =>
    obtain ⟨cut, slope, hhead, hslope⟩ := headOf?_cutupd hl
    exact ⟨_, hhead, congrArg (fun k => 5 * (k + 1)) hslope⟩
  case proc =>
    obtain ⟨nch, n, hhead, hn, hnch⟩ := headOf?_proc hl
    exact ⟨_, hhead, congrArg₂ (· * ·) hn hnch⟩
  case rddly =>
    obtain ⟨st, ch, hhead⟩ := headOf?_rddly hl
    exact ⟨_, hhead, rfl⟩

end Sys2Proof
end

section
/-! SUPPORT. A packet whose header is a command head decodes when its payload has the length the head
requires, and only then (30_encoding.md R97, R100). -/

namespace Sys2Proof

/-- No head requires more than the largest stereo block (R97). -/
theorem Head.paylen_le (hd : Head) : hd.paylen ≤ 131070 := by
  cases hd
  case cutupd cut slope =>
    have hslope := slope.toNat_le_three
    rw [Head.paylen]
    omega
  case proc nch n =>
    have hn : n.toNat ≤ 65535 := Nat.le_of_lt_succ n.isLt
    have hnch : nch.toNat ≤ 2 := by cases nch <;> decide
    exact Nat.mul_le_mul hn hnch
  all_goals simp [Head.paylen]

/-- A payload of the required length is read (R98). -/
theorem Head.withPayload?_isSome {hd : Head} {ws : List Word} (hlen : ws.length = hd.paylen) :
    (hd.withPayload? ws).isSome := by
  cases hd
  case prepare =>
    obtain ⟨sr, mb, rfl⟩ := List.length_eq_two.mp hlen
    rfl
  case magq | wrcsr =>
    obtain ⟨w, rfl⟩ := List.length_eq_one_iff.mp hlen
    rfl
  case setcoef =>
    obtain ⟨k, rfl⟩ := Coef.exists_words hlen
    rfl
  case pathgen | tick =>
    obtain ⟨b, rfl⟩ := Bounds.exists_words hlen
    rfl
  case cutupd cut slope =>
    exact Option.isSome_map.trans (Coef.listOfWords?_isSome _ ws hlen)
  case proc => rfl
  all_goals
    obtain rfl := List.length_eq_zero_iff.mp hlen
    rfl

variable {p : PortId} {op : Op} {h : Word} {ws : List Word} {hd : Head}

/-- Once the opcode and the fields are read, decoding is the length check (R100). -/
theorem decode_of_headOf? (hcode : fieldOf h 31 24 = op.code) (hport : op.onPort p = true)
    (hhead : headOf? p op h = some hd) :
    (ws.length = hd.paylen → ∃ i, decode p (h :: ws) = .ok i) ∧
    (ws.length ≠ hd.paylen → decode p (h :: ws) = .bad .len) := by
  simp only [decode, hcode, Op.ofCode?_code, hport, hhead, if_true]
  constructor
  · intro hlen
    obtain ⟨i, hi⟩ := Option.isSome_iff_exists.mp (Head.withPayload?_isSome hlen)
    exact ⟨i, by rw [if_pos hlen, hi]⟩
  · exact fun hlen => if_neg hlen

end Sys2Proof
end

section
/-! The obligation about payload lengths (30_encoding.md R97). -/

open Sys2Proof Sys2Proof.Machine

/-- Settles O6: legal fields are a head of that length (`headOf?_paylen`), no head requires more than
131070 words (`Head.paylen_le`), and the rest of decoding is the length check
(`decode_of_headOf?`). -/
theorem payloadLengthFromHeader : Obligations.PayloadLengthFromHeader := by
  intro p op h ws hcode hport hfield
  obtain ⟨hd, hhead, hpaylen⟩ := headOf?_paylen ((legalFields_iff p op h).mpr hfield)
  obtain ⟨hok, hbad⟩ := decode_of_headOf? (ws := ws) hcode hport hhead
  rw [← hpaylen]
  refine ⟨hd.paylen_le, ⟨fun hlen heq => ?_, hbad⟩, ⟨fun ⟨i, hi⟩ => ?_, hok⟩⟩
  · obtain ⟨i, hi⟩ := hok heq
    cases hlen.symm.trans hi
  · by_contra hne
    cases hi.symm.trans (hbad hne)

end

section
/-! SUPPORT. One biquad at a stage address (40_filter_stage.md R122): what it answers, the record it
leaves at its own stage, and that it leaves every other stage's record alone. -/

namespace Sys2Proof.Machine

variable (nm : NumRecord) (g : Settings) (st : Stage) (d : Bank Delay) (x : F32)

/-- The output of Direct Form I, its five products summed in the order of R122. -/
theorem biquadStep_output (k : Coef) (o : Delay) :
    (biquadStep nm k o x).1 =
      nm.fsub (nm.fsub (nm.fadd (nm.fadd (nm.fmul k.b0 x) (nm.fmul k.b1 o.x1))
        (nm.fmul k.b2 o.x2)) (nm.fmul k.a1 o.y1)) (nm.fmul k.a2 o.y2) := rfl

/-- The input and the output enter the record, and the last ones age by one sample. -/
theorem biquadStep_delay (k : Coef) (o : Delay) :
    (biquadStep nm k o x).2 = ⟨x, o.x1, (biquadStep nm k o x).1, o.y1⟩ := rfl

theorem biquadAt_output :
    (biquadAt nm g st d x).1 = (biquadStep nm (g.coef.get st) (d.get st) x).1 := rfl

theorem biquadAt_bank :
    (biquadAt nm g st d x).2 = d.set st (biquadStep nm (g.coef.get st) (d.get st) x).2 := rfl

@[simp] theorem biquadAt_get_same :
    (biquadAt nm g st d x).2.get st = (biquadStep nm (g.coef.get st) (d.get st) x).2 := by
  rw [biquadAt_bank, Bank.get_set_same]

theorem biquadAt_get_ne {st' : Stage} (h : st' ≠ st) :
    (biquadAt nm g st d x).2.get st' = d.get st' := by
  rw [biquadAt_bank, Bank.get_set_ne _ _ h]

end Sys2Proof.Machine
end

section
/-! The obligation about one sample through a biquad (40_filter_stage.md R122). -/

open Sys2Proof Sys2Proof.Machine

/-- Settles O34: the stage answers and keeps what `biquadStep` computes from its own coefficients and
record, and the write to the bank reaches no other stage (`biquadAt_get_ne`). -/
theorem biquadDirectFormOne : Obligations.BiquadDirectFormOne := by
  intro nm g st d x k o t
  have houtput : (biquadStep nm k o x).1 = t := biquadStep_output nm x k o
  refine ⟨?output, ?ownRecord, ?otherRecords⟩
  case output => rw [biquadAt_output, houtput]
  case ownRecord => rw [biquadAt_get_same, biquadStep_delay, houtput]
  case otherRecords => exact fun st' hne => biquadAt_get_ne nm g st d x hne

end

section
/-! SUPPORT. The sections of a cut chain a slope order leaves active (41_cut_chain.md R143, R148). -/

namespace Sys2Proof.Machine

/-- A cut chain has four sections. -/
theorem Sec.order_length : Sec.order.length = 4 := rfl

/-- The sections at or below the slope order are the first s + 1. -/
theorem filter_not_bypassedAt (o : Sec) :
    (Sec.order.filter fun k => !bypassedAt o k) = Sec.order.take (o.toNat + 1) := by
  cases o <;> decide

/-- The sections above the slope order are all the others. -/
theorem filter_bypassedAt (o : Sec) :
    (Sec.order.filter fun k => bypassedAt o k) = Sec.order.drop (o.toNat + 1) := by
  cases o <;> decide

/-- A CUTUPD that loads its chain leaves there the flags of its slope order (R143). -/
theorem exec_cutupd_sectionFlag {c : Cut} {o : Sec} {sets : List Coef} {s t : State}
    (hlen : sets.length = o.toNat + 1) (h : exec (.cutupd c o sets) s = .next t) (k : Sec) :
    (t.sbyp.get c).get k = bypassedAt o k := by
  cases (execCutupd_of_length hlen c s).symm.trans h
  rw [Cuts.get_set_same, slopeBypass_get]

end Sys2Proof.Machine
end

section
/-! The obligation about the number of active sections of a cut chain (41_cut_chain.md R148). -/

open Sys2Proof Sys2Proof.Machine

/-- Settles O33: the flags CUTUPD leaves cut the section order after its first s + 1, which gives both
counts, and every other command keeps the flags (`exec_sectionsKept`). -/
theorem activeSectionCount : Obligations.ActiveSectionCount := by
  refine ⟨fun c o sets s t hlen h => ?cutupd, fun i s t hi h => (exec_sectionsKept hi h).2⟩
  have hflags : ∀ k, (t.sbyp.get c).get k = bypassedAt o k := exec_cutupd_sectionFlag hlen h
  have hslope : o.toNat ≤ 3 := o.toNat_le_three
  simp only [hflags, filter_not_bypassedAt, filter_bypassedAt, and_true]
  refine ⟨?activeCount, ?bypassedCount⟩
  case activeCount =>
    rw [List.length_take, Sec.order_length]
    omega
  case bypassedCount =>
    rw [List.length_drop, Sec.order_length]
    omega

end

section
/-! SUPPORT. The links of the cascade (40_filter_stage.md R124, R125; 41_cut_chain.md R141;
42_mono_chain.md R156): what a bypassed and an active link answer, the cut chain and the chain as
cascades of links, and the delay records each of them leaves alone. -/

namespace Sys2Proof.Machine

/-- A link that is bypassed, or whose body keeps a record, keeps that record. -/
theorem unlessBypassed_get {bypassed : Bool} {f : Bank Delay → F32 → F32 × Bank Delay} {st : Stage}
    (hf : bypassed = false → ∀ d x, (f d x).2.get st = d.get st) (r : F32 × Bank Delay) :
    (unlessBypassed bypassed f r).2.get st = r.2.get st := by
  cases bypassed with
  | true => rfl
  | false => exact hf rfl r.2 r.1

variable (nm : NumRecord) (g : Settings) (d : Bank Delay) (x : F32)

theorem stageStep_eq (st : Stage) :
    stageStep nm g st d x = unlessBypassed (stageBypass g st) (biquadAt nm g st) (x, d) := rfl

theorem stageStep_of_bypassed (st : Stage) (h : stageBypass g st = true) :
    stageStep nm g st d x = (x, d) := if_pos h

theorem stageStep_of_active (st : Stage) (h : stageBypass g st = false) :
    stageStep nm g st d x = biquadAt nm g st d x := if_neg (by simp [h])

/-- A stage step writes no record but its own, and that only when it is active (R124, R125). -/
theorem stageStep_get {st st' : Stage} (h : st' = st → stageBypass g st = true) :
    (stageStep nm g st d x).2.get st' = d.get st' := by
  rw [stageStep_eq]
  exact unlessBypassed_get
    (fun hactive d x => biquadAt_get_ne nm g st d x fun heq => by simp [h heq] at hactive) (x, d)

/-- The four sections of a cut chain in order, each a link with its own flag (R141). -/
theorem cutStep_eq (c : Cut) :
    cutStep nm g c d x =
      unlessBypassed (g.sbyp.get c).s3 (biquadAt nm g (.cut c .s3))
        (unlessBypassed (g.sbyp.get c).s2 (biquadAt nm g (.cut c .s2))
          (unlessBypassed (g.sbyp.get c).s1 (biquadAt nm g (.cut c .s1))
            (unlessBypassed (g.sbyp.get c).s0 (biquadAt nm g (.cut c .s0)) (x, d)))) := rfl

/-- The five positions in order, each a link with its own flag (R156). -/
theorem chainStep_eq :
    chainStep nm g d x =
      unlessBypassed g.pbyp.hc (cutStep nm g .hc)
        (unlessBypassed g.pbyp.pk3 (biquadAt nm g (.peak .pk3))
          (unlessBypassed g.pbyp.pk2 (biquadAt nm g (.peak .pk2))
            (unlessBypassed g.pbyp.pk1 (biquadAt nm g (.peak .pk1))
              (unlessBypassed g.pbyp.lc (cutStep nm g .lc) (x, d))))) := rfl

/-- A cut chain keeps every record but those of its active sections. -/
theorem cutStep_get {c : Cut} {st : Stage} (h : st.pos = .cut c → stageBypass g st = true) :
    (cutStep nm g c d x).2.get st = d.get st :=
  List.foldlRecOn (motive := fun r : F32 × Bank Delay => r.2.get st = d.get st) Sec.order _ rfl
    fun r hr k _ => (stageStep_get nm g r.2 r.1 (by rintro rfl; exact h rfl)).trans hr

/-- A position keeps every record but those of its active stages. -/
theorem posStep_get {p : Pos} {st : Stage} (h : st.pos = p → stageBypass g st = true) :
    (posStep nm g p d x).2.get st = d.get st := by
  cases p with
  | cut c => exact cutStep_get nm g d x h
  | peak k =>
    refine biquadAt_get_ne nm g (.peak k) d x ?_
    rintro rfl
    exact Bool.false_ne_true (h rfl)

/-- The chain writes the records of enabled stages only (R125, R158). -/
theorem chainStep_get_of_disabled {st : Stage} (h : stageEnabled g st = false) :
    (chainStep nm g d x).2.get st = d.get st := by
  have hbyp : g.pbyp.get st.pos = false → stageBypass g st = true := by
    simpa [stageEnabled] using h
  refine List.foldlRecOn (motive := fun r : F32 × Bank Delay => r.2.get st = d.get st) Pos.order _
    rfl fun r hr p _ => ?_
  refine (unlessBypassed_get (f := posStep nm g p) (fun hactive d x => ?_) r).trans hr
  exact posStep_get nm g d x (by rintro rfl; exact hbyp hactive)

/-- With all five positions bypassed the chain answers the word and the records it was given (R158). -/
theorem chainStep_of_all_bypassed (h : ∀ p, g.pbyp.get p = true) :
    chainStep nm g d x = (x, d) :=
  List.foldl_fixed' (fun p => if_pos (h p)) Pos.order

end Sys2Proof.Machine
end

section
/-! The obligation about the bypasses of stage, cut chain and chain (42_mono_chain.md R156, R158). -/

open Sys2Proof Sys2Proof.Machine

/-- Settles O36: the cut chain and the chain are cascades of links (`cutStep_eq`, `chainStep_eq`), the
chain keeps the record of every stage that is not enabled, and links that are all bypassed leave the
cascade where it started. -/
theorem bypassedChainIsTransparent : Obligations.BypassedChainIsTransparent := by
  intro nm g d x
  refine ⟨fun c k => ⟨stageStep_of_bypassed nm g d x (.cut c k),
      stageStep_of_active nm g d x (.cut c k)⟩,
    fun k => stageStep_of_active nm g d x (.peak k) rfl, cutStep_eq nm g d x, chainStep_eq nm g d x,
    fun st hst => chainStep_get_of_disabled nm g d x ?disabled, chainStep_of_all_bypassed nm g d x⟩
  case disabled =>
    rcases hst with hpos | ⟨c, k, rfl, hsec⟩
    · simp [stageEnabled, hpos]
    · simp [stageEnabled, stageBypass, hsec]

end

section
/-! SUPPORT. PROC with no samples (42_mono_chain.md R164): its checks, and its run over the channels
of an empty payload. -/

namespace Sys2Proof.Machine

theorem exec_proc (nch : ChanCount) (n : BitVec 16) (payload : List F32) (s : State) :
    exec (.proc nch n payload) s = execProc nch n payload s := rfl

theorem procCheck_of_not_prepared (n : Nat) {s : State} (h : s.prepared = false) :
    procCheck n s = some .notprep := if_pos h

/-- A prepared block passes the checks of PROC with up to MAXBLK samples (R160). -/
theorem procCheck_eq_none_of_prepared {n : Nat} {s : State} (hprep : s.prepared = true)
    (hn : n ≤ s.maxblk) : procCheck n s = none := by
  simp [procCheck, hprep, hn]

/-- No channel has a sample in an empty payload (R98). -/
@[simp] theorem planar_nil (n : Nat) (c : Chan) : planar n [] c = [] := by
  cases c <;> simp [planar]

/-- With no samples no channel answers an output or changes the state. -/
@[simp] theorem procChannels_nil_payload (n : Nat) (cs : List Chan) (s : State) :
    procChannels n [] cs s = ([], s) := by
  induction cs with
  | nil => rfl
  | cons c cs ih => simp [procChannels, procChannel, ih]

/-- PROC takes the fault its checks answer (R160). -/
theorem exec_proc_of_check_some {nch : ChanCount} {n : BitVec 16} {payload : List F32} {s : State}
    {k : FaultCode} (hlen : payload.length = n.toNat * nch.toNat)
    (hcheck : procCheck n.toNat s = some k) :
    exec (.proc nch n payload) s = .next (takeFault .a k s) := by
  rw [exec_proc, execProc, if_pos hlen, hcheck]

/-- PROC that passes its checks runs its channels and responds their outputs (R160). -/
theorem exec_proc_of_check_none {nch : ChanCount} {n : BitVec 16} {payload : List F32} {s : State}
    (hlen : payload.length = n.toNat * nch.toNat) (hcheck : procCheck n.toNat s = none) :
    exec (.proc nch n payload) s =
      .next (respond .a (procChannels n.toNat payload nch.chans s).1
        (procChannels n.toNat payload nch.chans s).2) := by
  rw [exec_proc, execProc, if_pos hlen, hcheck]

/-- An empty payload has the length the header of a PROC with n = 0 gives (R97). -/
theorem nil_length_of_no_samples (nch : ChanCount) :
    ([] : List F32).length = (0#16).toNat * nch.toNat := (Nat.zero_mul nch.toNat).symm

end Sys2Proof.Machine
end

section
/-! The obligation about PROC with n = 0 (42_mono_chain.md R164). -/

open Sys2Proof Sys2Proof.Machine

/-- Settles O38: prepared, PROC runs its channels over no samples and responds no words, which is no
packet (`emit_nil`); not prepared, its first check answers code 4. -/
theorem procOfNoSamples : Obligations.ProcOfNoSamples := by
  intro nch s
  have hlen := nil_length_of_no_samples nch
  refine ⟨fun hprep => ?prepared, fun hprep => ?notPrepared⟩
  case prepared =>
    have hcheck := procCheck_eq_none_of_prepared hprep (Nat.zero_le s.maxblk)
    calc exec (.proc nch 0#16 []) s = .next (respond .a [] s) := by
          rw [exec_proc_of_check_none hlen hcheck, procChannels_nil_payload]
      _ = .next s := congrArg _ (emit_nil .a false s)
  case notPrepared =>
    exact exec_proc_of_check_some hlen (procCheck_of_not_prepared _ hprep)

end

section
/-! SUPPORT. The whole next state of a push, one equation for each of its three cases, and the answer
of a pull for an empty and a non-empty queue (44_sample_queue.md R193, R194, R196). -/

namespace Sys2Proof.Machine
variable {c : Chan} {v : F32} {s : State}

/-- A sample that does not complete a block only joins the accumulator: the queue is set to itself
(R193). -/
theorem qPush_of_not_full (hfull : (s.acc.get c ++ [v]).length ≠ s.maxblk) :
    qPush c v s = { s with acc := s.acc.set c (s.acc.get c ++ [v]) } := by
  simp only [qPush, hfull, if_false, false_and, Chans.set_get_self]

/-- A sample that completes a block sends it to a queue with room (R193). -/
theorem qPush_of_full_of_room (hfull : (s.acc.get c ++ [v]).length = s.maxblk)
    (hroom : (s.queue.get c).length < s.cfg.qcap) :
    qPush c v s =
      { s with
        acc := s.acc.set c []
        queue := s.queue.set c (s.queue.get c ++ [s.acc.get c ++ [v]]) } := by
  simp only [qPush, hfull, hroom, if_true, and_self]

/-- A completed block that finds no room is lost, and the queue is set to itself (R194). -/
theorem qPush_of_full_of_no_room (hfull : (s.acc.get c ++ [v]).length = s.maxblk)
    (hroom : ¬(s.queue.get c).length < s.cfg.qcap) :
    qPush c v s = { s with acc := s.acc.set c [] } := by
  simp only [qPush, hfull, hroom, if_true, if_false, and_false, Chans.set_get_self]

/-- An empty queue has no block to answer (R196). -/
theorem qPull_of_empty (h : s.queue.get c = []) : qPull c s = none := by
  simp only [qPull, h]

/-- A pull removes the block it answers (R196). -/
theorem qPull_of_cons {blk : List F32} {rest : List (List F32)} (h : s.queue.get c = blk :: rest) :
    qPull c s = some (blk, { s with queue := s.queue.set c rest }) :=
  qPull_eq_some.mpr ⟨rest, h, rfl⟩

end Sys2Proof.Machine
end

section
/-! The obligation about a push and a pull (44_sample_queue.md R193, R196). -/

open Sys2Proof Sys2Proof.Machine

/-- Settles O47: by whether the sample completes a block and whether the queue has room for it; a pull
by whether there is a block. -/
theorem sampleQueuePrimitives : Obligations.SampleQueuePrimitives := by
  refine ⟨fun c v s => ?push, fun c s => ⟨qPull_of_empty, fun _ _ => qPull_of_cons⟩⟩
  case push =>
    intro blk
    split
    case isFalse hfull => exact qPush_of_not_full hfull
    case isTrue hfull =>
      split
      case isTrue hroom => exact qPush_of_full_of_room hfull hroom
      case isFalse hroom => exact qPush_of_full_of_no_room hfull hroom

end

section
/-! SUPPORT. The order of values where no operand is a NaN (00_scope.md R15), and what the decibel
conversion and the roll shift answer, one equation for each of their cases (45_analyzer.md R214,
R226). -/

namespace Sys2Proof

/-- A finite value is no NaN. -/
theorem F32.isNaN_eq_false_of_isFinite {w : F32} (h : w.isFinite = true) : w.isNaN = false := by
  have hexpo : w.expo ≠ 255 := by simpa [F32.isFinite] using h
  simp [F32.isNaN, hexpo]

/-- Every value but a NaN is at most itself. -/
theorem fle_refl {w : F32} (h : w.isNaN = false) : fle w w = true := by simp [fle, h]

theorem fle_of_flt {a b : F32} (h : flt a b = true) : fle a b = true := by
  simp only [flt, fle, Bool.and_eq_true, decide_eq_true_eq] at h ⊢
  obtain ⟨hnan, hlt⟩ := h
  exact ⟨hnan, hlt.le⟩

/-- `max_s` with a first operand that is no NaN is never below it, whatever the second is (R15). -/
theorem fle_maxS_left {a : F32} (h : a.isNaN = false) (b : F32) : fle a (maxS a b) = true := by
  unfold maxS
  split
  case isTrue hlt => exact fle_of_flt hlt
  case isFalse => exact fle_refl h

end Sys2Proof

namespace Sys2Proof.Machine

section
variable (nm : NumRecord) (floor : F32) {m : F32}

/-- A magnitude that is not finite or not above zero reads FLOOR (R226). -/
theorem toDb_of_unusable (h : m.isFinite = false ∨ flt F32.zero m = false) :
    toDb nm floor m = floor := if_neg (by rcases h with h | h <;> simp [h])

/-- A finite magnitude above zero is converted and clamped below only (R226). -/
theorem toDb_of_positive (hfin : m.isFinite = true) (hpos : flt F32.zero m = true) :
    toDb nm floor m = maxS floor (nm.fmul F32.twenty (nm.flog10 m)) := if_pos (by simp [hfin, hpos])

end

/-- A legal FLOOR is finite, so it is no NaN (R44). -/
theorem isNaN_eq_false_of_legalFloor {w : F32} (h : legalFloor w = true) : w.isNaN = false := by
  obtain ⟨hfin, -⟩ := Bool.and_eq_true_iff.mp h
  exact F32.isNaN_eq_false_of_isFinite hfin

/-- No decibel value is below a FLOOR that is no NaN (R226). -/
theorem fle_toDb (nm : NumRecord) {floor : F32} (h : floor.isNaN = false) (m : F32) :
    fle floor (toDb nm floor m) = true := by
  unfold toDb
  split
  case isTrue => exact fle_maxS_left h _
  case isFalse => exact fle_refl h

section
variable (c : Chan) (blk : List F32) (s : State)

/-- The buffer of the channel after a roll shift: what is left of the old one, then the block (R214). -/
theorem rollShift_get_same :
    (rollShift c blk s).roll.get c = (s.roll.get c).drop blk.length ++ blk :=
  Chans.get_set_same _ _ _

theorem rollShift_get_ne {d : Chan} (h : d ≠ c) :
    (rollShift c blk s).roll.get d = s.roll.get d := Chans.get_set_ne _ _ h

end

/-- A block no longer than the buffer leaves its length as it was (R214, R215). -/
theorem rollShift_length {c : Chan} {blk : List F32} {s : State}
    (h : blk.length ≤ (s.roll.get c).length) :
    ((rollShift c blk s).roll.get c).length = (s.roll.get c).length := by
  simp only [rollShift_get_same, List.length_append, List.length_drop]
  omega

/-- The old samples that stay move left by the block length (R214). -/
theorem rollShift_getElem?_old {c : Chan} {blk : List F32} {s : State} {j : Nat}
    (h : j < (s.roll.get c).length - blk.length) :
    ((rollShift c blk s).roll.get c)[j]? = (s.roll.get c)[j + blk.length]? := by
  rw [rollShift_get_same, List.getElem?_append_left (by rwa [List.length_drop]), List.getElem?_drop,
    Nat.add_comm]

/-- The block stands after them, in its order (R214). -/
theorem rollShift_getElem?_new (c : Chan) (blk : List F32) (s : State) (j : Nat) :
    ((rollShift c blk s).roll.get c)[(s.roll.get c).length - blk.length + j]? = blk[j]? := by
  rw [rollShift_get_same, ← List.length_drop, List.getElem?_append_right (Nat.le_add_right _ _),
    Nat.add_sub_cancel_left]

/-- A block as long as the buffer replaces all of it (R214). -/
theorem rollShift_get_of_full {c : Chan} {blk : List F32} {s : State}
    (h : blk.length = (s.roll.get c).length) : (rollShift c blk s).roll.get c = blk := by
  rw [rollShift_get_same, h, List.drop_length, List.nil_append]

end Sys2Proof.Machine
end

section
/-! The obligations about the roll shift and the decibel conversion (45_analyzer.md R214, R226). -/

open Sys2Proof Sys2Proof.Machine

/-- Settles O49: the new buffer is the old one without its first B samples, then the block
(`rollShift_get_same`), read on either side of the seam. -/
theorem rollShiftMovesLeft : Obligations.RollShiftMovesLeft := by
  intro c blk s hlen hblk
  rw [← hlen] at hblk ⊢
  exact ⟨rollShift_length hblk, fun _ hj => rollShift_getElem?_old hj,
    fun j _ => rollShift_getElem?_new c blk s j, rollShift_get_of_full,
    fun _ hd => rollShift_get_ne c blk s hd, rfl⟩

/-- Settles O52: the two branches of `toDb`, the second a `maxS` with FLOOR; a legal FLOOR is no NaN,
so neither branch is below it. -/
theorem decibelNeverBelowFloor : Obligations.DecibelNeverBelowFloor := by
  intro nm floor m hfloor
  exact ⟨toDb_of_unusable nm floor, toDb_of_positive nm floor,
    fle_toDb nm (isNaN_eq_false_of_legalFloor hfloor) m⟩

end

section
/-! SUPPORT. The commands of the analyzer on a block that is not prepared and on one whose analyzer is
disabled (45_analyzer.md R211), and the two read-backs, which read neither (R236, R237). -/

namespace Sys2Proof.Machine
variable {c : Chan} {b : Bounds} {s : State}

/-- NOTPREP comes before RANGE (R234, R240). -/
theorem boundsCheck_of_not_prepared (h : s.prepared = false) : boundsCheck b s = some .notprep :=
  if_pos h

/-- A prepared block passes the checks with finite bounds (R234, R240). -/
theorem boundsCheck_eq_none (hprep : s.prepared = true) (hb : someBoundNotFinite b = false) :
    boundsCheck b s = none := by
  have hfin : Bounds.isFinite b = true := by
    simpa [someBoundNotFinite, Bounds.isFinite, and_assoc] using hb
  simp [boundsCheck, hprep, hfin]

section
variable (hprep : s.prepared = false)
include hprep

theorem exec_pull_of_not_prepared : exec (.pull c) s = .next (takeFault .v .notprep s) :=
  if_pos hprep

theorem exec_fftrun_of_not_prepared : exec (.fftrun c) s = .next (takeFault .v .notprep s) :=
  if_pos hprep

theorem exec_pathgen_of_not_prepared :
    exec (.pathgen c b) s = .next (takeFault .v .notprep s) := by
  simp only [exec, execPathgen, boundsCheck_of_not_prepared hprep]

theorem exec_tick_of_not_prepared : exec (.tick b) s = .next (takeFault .v .notprep s) := by
  simp only [exec, execTick, boundsCheck_of_not_prepared hprep]

end

section
variable (hprep : s.prepared = true) (hanen : s.anen = false)
include hprep hanen

theorem exec_pull_of_disabled :
    exec (.pull c) s = .next (s.withResponse .v [⟨0#32, true, false⟩]) := by
  simp only [exec, execPull, hprep, hanen, Bool.true_eq_false, if_false, if_true]
  rfl

theorem exec_fftrun_of_disabled :
    exec (.fftrun c) s = .next (s.withResponse .v [⟨0#32, true, false⟩]) := by
  simp only [exec, execFftrun, hprep, hanen, Bool.true_eq_false, if_false, if_true]
  rfl

theorem exec_pathgen_of_disabled (hb : someBoundNotFinite b = false) :
    exec (.pathgen c b) s = .next (s.withResponse .v [⟨0#32, true, false⟩]) := by
  simp only [exec, execPathgen, boundsCheck_eq_none hprep hb, hanen, if_true]
  rfl

theorem exec_tick_of_disabled (hb : someBoundNotFinite b = false) :
    exec (.tick b) s = .next s := by
  simp only [exec, execTick, boundsCheck_eq_none hprep hb, hanen, if_true]

end

/-- With no current frame RDFRAME responds the single word 0 (R236). -/
theorem exec_rdframe_of_none (h : s.curframe.get c = none) :
    exec (.rdframe c) s = .next (s.withResponse .v (rspPacket false [countWord 0])) := by
  simp only [exec, execRdframe, h]
  rfl

/-- With a current frame RDFRAME responds N/2 and its values (R236). -/
theorem exec_rdframe_of_some {frame : List F32} (h : s.curframe.get c = some frame) :
    exec (.rdframe c) s =
      .next (s.withResponse .v (rspPacket false (countWord (s.cfg.n / 2) :: frame))) := by
  simp only [exec, execRdframe, h]
  rfl

/-- RDPATH responds the number of points and their words (R237). -/
theorem exec_rdpath (c : Chan) (s : State) :
    exec (.rdpath c) s = .next (s.withResponse .v (rspPacket false
      (countWord (s.curpath.get c).length :: (s.curpath.get c).flatMap Point.words))) := rfl

/-- The words RDFRAME responds are the same whatever PREPARED and ANEN are (R211). -/
theorem exec_rdframe_ungated (c : Chan) (s : State) :
    ∃ frame, ∀ (prepared anen : Bool) (t : State),
      t = { s with prepared := prepared, anen := anen } →
      exec (.rdframe c) t = .next (t.withResponse .v (rspPacket false frame)) := by
  cases h : s.curframe.get c with
  | none => exact ⟨_, fun _ _ _ ht => exec_rdframe_of_none (by rw [ht, h])⟩
  | some frame =>
    refine ⟨countWord (s.cfg.n / 2) :: frame, fun _ _ _ ht => ?_⟩
    subst ht
    exact exec_rdframe_of_some h

end Sys2Proof.Machine
end

section
/-! The obligation about the two gates of the analyzer (45_analyzer.md R211). -/

open Sys2Proof Sys2Proof.Machine

/-- Settles O58: each of the four commands takes the branch of its first check that fails, PREPARED
before ANEN; the read-backs have no such branch. -/
theorem disabledAnalyzerDoesNothing : Obligations.DisabledAnalyzerDoesNothing := by
  refine ⟨fun c b s hprep hanen hb => ?disabled, fun c b s hprep => ?notPrepared,
    fun c s => ?ungated⟩
  case disabled =>
    exact ⟨exec_pull_of_disabled hprep hanen, exec_fftrun_of_disabled hprep hanen,
      exec_pathgen_of_disabled hprep hanen hb, exec_tick_of_disabled hprep hanen hb⟩
  case notPrepared =>
    exact ⟨exec_pull_of_not_prepared hprep, exec_fftrun_of_not_prepared hprep,
      exec_pathgen_of_not_prepared hprep, exec_tick_of_not_prepared hprep⟩
  case ungated =>
    obtain ⟨frame, hframe⟩ := exec_rdframe_ungated c s
    refine ⟨frame, countWord (s.curpath.get c).length :: (s.curpath.get c).flatMap Point.words,
      fun prepared anen t ht => ⟨hframe prepared anen t ht, ?path⟩⟩
    case path =>
      subst ht
      exact exec_rdpath c _

end

section
/-! SUPPORT. The operands PREPARE accepts, and the session it starts on them (46_system.md R252,
R255). -/

namespace Sys2Proof.Machine

theorem legalSession_iff {n maxblk : Nat} {srate : F32} :
    legalSession n srate maxblk = true ↔
      srate.isFinite = true ∧ flt F32.zero srate = true ∧ 1 ≤ maxblk ∧ maxblk ≤ n := by
  simp only [legalSession, Bool.and_eq_true, decide_eq_true_eq, and_assoc]

/-- PREPARE with legal operands starts the session and faults nothing (R252). -/
theorem exec_prepare_of_legalSession {srate : F32} {maxblk : Word} {s : State}
    (h : legalSession s.cfg.n srate maxblk.toNat = true) :
    exec (.prepare srate maxblk) s = .next (startSession srate maxblk.toNat s) := if_pos h

end Sys2Proof.Machine
end

section
/-! The obligation about the session a legal PREPARE starts (46_system.md R253). -/

open Sys2Proof Sys2Proof.Machine

/-- Settles O21: the operands are legal (`legalSession_iff`, with N = 2 ^ FFTORD), so PREPARE answers
`startSession`, which loads the session and clears the histories and keeps the other fields; a zero
binary32 value and a cleared delay record are the words 0. -/
theorem prepareStartsSession : Obligations.PrepareStartsSession := by
  intro s sr mb hfinite hpositive hlow hhigh
  have hlegal : legalSession s.cfg.n sr mb.toNat = true :=
    legalSession_iff.mpr ⟨hfinite, hpositive, hlow, hhigh⟩
  calc exec (.prepare sr mb) s
      _ = .next (startSession sr mb.toNat s) := exec_prepare_of_legalSession hlegal
      _ = _ := rfl

end

section
/-! SUPPORT. The fault a decoded command takes, from the checks in the order of 60_exceptions.md R277:
what no packet decodes to, then NOTPREP, then RANGE; and what a command that passes all of them does
to the fault bits and to PREPARED. -/

namespace Sys2Proof.Machine

/-- Why an executed command takes a fault of a code (R277): the packet is one the decoder refuses
(log 14), the command needs a session, or an operand is out of range. ILLOP is the decoder's alone. -/
inductive FaultReason (i : Instr) (s : State) : FaultCode → Prop
  | field : i.wellFormed = false → FaultReason i s .field
  | len : i.wellFormed = false → FaultReason i s .len
  | notprep : needsSession i = true → s.prepared = false → FaultReason i s .notprep
  | range : rangeFault i s = true → FaultReason i s .range

/-- What a command that takes no fault does to the two things faults are about: it sets no fault bit
(R35) and ends no session (R278). -/
structure NoFaultTaken (s t : State) : Prop where
  bits : ∀ (p : PortId) (j : Nat),
    (t.fstat.get p).getLsbD j = true → (s.fstat.get p).getLsbD j = true
  session : s.prepared = true → t.prepared = true

end Sys2Proof.Machine

namespace Sys2Proof

/-- Where neither operand is a NaN, a ≤ b is not b < a (R15). -/
theorem fle_eq_not_flt {a b : F32} (ha : a.isNaN = false) (hb : b.isNaN = false) :
    fle a b = !flt b a := by
  simp only [fle, flt, ha, hb, Bool.not_false, Bool.true_and, ← decide_not, not_lt]

theorem FaultCode.toNat_injective : Function.Injective FaultCode.toNat := by
  intro k k' h
  cases k <;> cases k' <;> cases h <;> rfl

end Sys2Proof

namespace Sys2Proof.Machine

/-! The conditions of the table of R279 are the operands the model's checks refuse. -/

theorem rangeFault_prepare (srate : F32) (maxblk : Word) (s : State) :
    rangeFault (.prepare srate maxblk) s = !legalSession s.cfg.n srate maxblk.toNat := by
  have hzero : (maxblk.toNat == 0) = !decide (1 ≤ maxblk.toNat) := by
    rw [← decide_not, Bool.eq_iff_iff]
    simp
  have hlarge : decide (2 ^ s.cfg.order < maxblk.toNat) = !decide (maxblk.toNat ≤ s.cfg.n) := by
    rw [← decide_not, decide_eq_decide, Nat.not_le, Config.n]
  rw [rangeFault, legalSession, hzero, hlarge]
  simp only [Bool.not_and]

/-- A finite f is not below zero exactly when zero is at most f (R170). -/
theorem rangeFault_magq (f : F32) (s : State) :
    rangeFault (.magq f) s = (s.prepared && !legalFreq s.num f s.srate) := by
  cases hfin : f.isFinite with
  | false => simp [rangeFault, legalFreq, hfin]
  | true =>
    have hsign : fle F32.zero f = !flt f F32.zero :=
      fle_eq_not_flt (by decide) (F32.isNaN_eq_false_of_isFinite hfin)
    simp [rangeFault, legalFreq, hfin, hsign]

theorem someBoundNotFinite_eq (b : Bounds) : someBoundNotFinite b = !Bounds.isFinite b := by
  simp only [someBoundNotFinite, Bounds.isFinite, Bool.not_and]

theorem rangeFault_floor (w : Word) (s : State) :
    rangeFault (.wrcsr .v .floor w) s = !legalFloor w := by
  simp only [rangeFault, legalFloor, Bool.not_and]

/-- A term no packet decodes to takes the decoder's fault: a number of words that is not the header's,
or a register the port may not write (log 14). -/
theorem exec_of_malformed {i : Instr} (hwf : i.wellFormed = false) (s : State) :
    ∃ k, FaultReason i s k ∧ exec i s = .next (takeFault i.port k s) := by
  cases i
  case cutupd c o sets =>
    have hlen : sets.length ≠ o.toNat + 1 := beq_eq_false_iff_ne.mp hwf
    exact ⟨.len, .len hwf, execCutupd_of_length_ne hlen c s⟩
  case proc nch n payload =>
    have hlen : payload.length ≠ n.toNat * nch.toNat := beq_eq_false_iff_ne.mp hwf
    exact ⟨.len, .len hwf, if_neg hlen⟩
  case wrcsr p r w => exact ⟨.field, .field hwf, exec_wrcsr_of_readOnly hwf w s⟩
  all_goals cases hwf

/-- The six commands check for a session before anything else a packet can hold (R277, R278). -/
theorem exec_of_not_prepared {i : Instr} {s : State} (hneeds : needsSession i = true)
    (hwf : i.wellFormed = true) (hprep : s.prepared = false) :
    exec i s = .next (takeFault i.port .notprep s) := by
  cases i
  case proc nch n payload =>
    have hlen : payload.length = n.toNat * nch.toNat := beq_iff_eq.mp hwf
    exact exec_proc_of_check_some hlen (procCheck_of_not_prepared _ hprep)
  case magq => exact if_pos hprep
  case pull => exact exec_pull_of_not_prepared hprep
  case fftrun => exact exec_fftrun_of_not_prepared hprep
  case pathgen => exact exec_pathgen_of_not_prepared hprep
  case tick => exact exec_tick_of_not_prepared hprep
  all_goals cases hneeds

theorem boundsCheck_of_not_finite {b : Bounds} {s : State} (hprep : s.prepared = true)
    (hb : someBoundNotFinite b = true) : boundsCheck b s = some .range := by
  have hfin : Bounds.isFinite b = false := by simpa [someBoundNotFinite_eq] using hb
  simp [boundsCheck, hprep, hfin]

theorem procCheck_of_maxblk_lt {n : Nat} {s : State} (hprep : s.prepared = true)
    (hn : s.maxblk < n) : procCheck n s = some .range := by
  simp [procCheck, hprep, hn]

/-- On a condition of the table of R279 a command takes code 5. -/
theorem exec_of_rangeFault {i : Instr} {s : State} (hwf : i.wellFormed = true)
    (hrange : rangeFault i s = true) : exec i s = .next (takeFault i.port .range s) := by
  cases i
  case prepare sr mb =>
    have hillegal : legalSession s.cfg.n sr mb.toNat = false := by
      simpa [rangeFault_prepare] using hrange
    exact if_neg (by simp [hillegal])
  case proc nch n payload =>
    have hlen : payload.length = n.toNat * nch.toNat := beq_iff_eq.mp hwf
    obtain ⟨hprep, hn⟩ : s.prepared = true ∧ s.maxblk < n.toNat := by
      simpa [rangeFault] using hrange
    exact exec_proc_of_check_some hlen (procCheck_of_maxblk_lt hprep hn)
  case magq f =>
    obtain ⟨hprep, hillegal⟩ : s.prepared = true ∧ legalFreq s.num f s.srate = false := by
      simpa [rangeFault_magq] using hrange
    simp [exec, execMagq, hprep, hillegal, Instr.port]
  case wrcsr p r w =>
    cases p <;> cases r
    case v.floor =>
      have hillegal : legalFloor w = false := by simpa [rangeFault_floor] using hrange
      simp [exec, execWrcsr, csrWrite, hillegal, Instr.port]
    all_goals cases hrange
  case pathgen c b =>
    obtain ⟨hprep, hb⟩ : s.prepared = true ∧ someBoundNotFinite b = true := by
      simpa [rangeFault] using hrange
    simp only [exec, execPathgen, boundsCheck_of_not_finite hprep hb, Instr.port]
  case tick b =>
    obtain ⟨hprep, hb⟩ : s.prepared = true ∧ someBoundNotFinite b = true := by
      simpa [rangeFault] using hrange
    simp only [exec, execTick, boundsCheck_of_not_finite hprep hb, Instr.port]
  all_goals cases hrange

theorem NoFaultTaken.of_eq {s t : State} (hfstat : t.fstat = s.fstat)
    (hprep : t.prepared = s.prepared) : NoFaultTaken s t :=
  ⟨fun _ _ h => hfstat ▸ h, fun h => hprep.trans h⟩

/-- FCLR clears fault bits of its port and sets none (R40). -/
theorem clearFaults_noFaultTaken (p : PortId) (w : Word) (s : State) :
    NoFaultTaken s (clearFaults p w s) := by
  refine ⟨fun q j h => ?_, id⟩
  rw [clearFaults_fstat] at h
  by_cases hq : q = p
  · subst hq
    rw [Ports.get_set_same, faultClear, BitVec.getLsbD_and] at h
    exact (Bool.and_eq_true_iff.mp h).1
  · rwa [Ports.get_set_ne _ _ hq] at h

theorem pullStep_noFaultTaken {c : Chan} {s t : State} (h : pullStep c s = some t) :
    NoFaultTaken s t := by
  rw [pullStep_frame h]
  exact .of_eq rfl rfl

/-- A write of a register the port may write, with a legal FLOOR where it is that one, is done
(R258). -/
theorem exec_wrcsr_of_checks_passed {p : PortId} {r : Csr} {w : Word} {s : State}
    (hwritable : r.writable p = true) (hrange : rangeFault (.wrcsr p r w) s = false) :
    ∃ t, exec (.wrcsr p r w) s = .next t ∧ NoFaultTaken s t := by
  rcases csrWrite_cases p r w s with
    ⟨rfl, _⟩ | ⟨rfl, rfl, _⟩ | ⟨rfl, rfl, _, hw⟩ | ⟨rfl, rfl, hillegal, _⟩ | ⟨hreadOnly, _⟩
  · exact ⟨_, exec_wrcsr_fclr p w s, clearFaults_noFaultTaken p w s⟩
  · exact ⟨_, exec_wrcsr_ctrl w s, .of_eq rfl rfl⟩
  · exact ⟨{ s with floor := w }, by simp only [exec, execWrcsr, hw], .of_eq rfl rfl⟩
  · simp [rangeFault_floor, hillegal] at hrange
  · cases hwritable.symm.trans hreadOnly

/-- A command whose packet is well formed and that passes the checks for NOTPREP and RANGE takes no
fault (R277). -/
theorem exec_of_checks_passed {i : Instr} {s : State} (hwf : i.wellFormed = true)
    (hsession : needsSession i = true → s.prepared = true) (hrange : rangeFault i s = false) :
    ∃ t, exec i s = .next t ∧ NoFaultTaken s t := by
  cases i
  case prepare sr mb =>
    have hlegal : legalSession s.cfg.n sr mb.toNat = true := by
      simpa [rangeFault_prepare] using hrange
    exact ⟨_, exec_prepare_of_legalSession hlegal, fun _ _ => id, fun _ => rfl⟩
  case cutupd c o sets =>
    have hlen : sets.length = o.toNat + 1 := beq_iff_eq.mp hwf
    exact ⟨_, execCutupd_of_length hlen c s, .of_eq rfl rfl⟩
  case proc nch n payload =>
    have hprep : s.prepared = true := hsession rfl
    have hlen : payload.length = n.toNat * nch.toNat := beq_iff_eq.mp hwf
    have hn : n.toNat ≤ s.maxblk := by simpa [rangeFault, hprep] using hrange
    refine ⟨_, exec_proc_of_check_none hlen (procCheck_eq_none_of_prepared hprep hn), ?_⟩
    rw [procChannels_frame]
    exact .of_eq rfl rfl
  case magq f =>
    have hprep : s.prepared = true := hsession rfl
    have hlegal : legalFreq s.num f s.srate = true := by
      simpa [rangeFault_magq, hprep] using hrange
    refine ⟨respond .a [chainMag s.num s.settings f s.srate] s, ?_, .of_eq rfl rfl⟩
    simp [exec, execMagq, hprep, hlegal]
  case wrcsr p r w => exact exec_wrcsr_of_checks_passed hwf hrange
  case pull c =>
    have hprep : s.prepared = true := hsession rfl
    rcases execPull_cases c s with ⟨hnot, _⟩ | ⟨_, _, he⟩ | ⟨u, _, _, hpull, he⟩
    · cases hprep.symm.trans hnot
    · exact ⟨_, he, .of_eq rfl rfl⟩
    · obtain ⟨hbits, hkept⟩ := pullStep_noFaultTaken hpull
      exact ⟨_, he, hbits, hkept⟩
  case fftrun c =>
    have hprep : s.prepared = true := hsession rfl
    rcases execFftrun_cases c s with ⟨hnot, _⟩ | ⟨_, _, he⟩ | ⟨_, _, he⟩
    · cases hprep.symm.trans hnot
    · exact ⟨_, he, .of_eq rfl rfl⟩
    · exact ⟨_, he, .of_eq rfl rfl⟩
  case pathgen c b =>
    have hprep : s.prepared = true := hsession rfl
    have hcheck := boundsCheck_eq_none (b := b) hprep (by simpa [rangeFault, hprep] using hrange)
    rcases execPathgen_cases c b s with ⟨_, hfault, _⟩ | ⟨_, _, he⟩ | ⟨_, _, he⟩
    · cases hcheck.symm.trans hfault
    · exact ⟨_, he, .of_eq rfl rfl⟩
    · refine ⟨_, he, ?_⟩
      rw [pathStep_frame]
      exact .of_eq rfl rfl
  case rdframe c =>
    obtain ⟨ws, he⟩ := execRdframe_eq c s
    exact ⟨_, he, .of_eq rfl rfl⟩
  case tick b =>
    have hprep : s.prepared = true := hsession rfl
    have hcheck := boundsCheck_eq_none (b := b) hprep (by simpa [rangeFault, hprep] using hrange)
    rcases execTick_cases b s with ⟨_, hfault, _⟩ | ⟨_, _, he⟩ | ⟨_, _, he⟩
    · cases hcheck.symm.trans hfault
    · exact ⟨_, he, .of_eq rfl rfl⟩
    · refine ⟨_, he, ?_⟩
      rw [tickChannel_frame, tickChannel_frame .l]
      exact .of_eq rfl rfl
  all_goals exact ⟨_, rfl, .of_eq rfl rfl⟩

/-- Everything an executed command can do about faults: take none, or one there is a reason for. -/
theorem exec_fault_cases {i : Instr} {s t : State} (h : exec i s = .next t) :
    NoFaultTaken s t ∨ ∃ k, FaultReason i s k ∧ t = takeFault i.port k s := by
  by_cases hwf : i.wellFormed = true
  · by_cases hsession : needsSession i = true → s.prepared = true
    · cases hrange : rangeFault i s with
      | false =>
        obtain ⟨u, he, hu⟩ := exec_of_checks_passed hwf hsession hrange
        cases he.symm.trans h
        exact .inl hu
      | true =>
        cases (exec_of_rangeFault hwf hrange).symm.trans h
        exact .inr ⟨.range, .range hrange, rfl⟩
    · obtain ⟨hneeds, hprep⟩ : needsSession i = true ∧ s.prepared = false := by
        simpa using hsession
      cases (exec_of_not_prepared hneeds hwf hprep).symm.trans h
      exact .inr ⟨.notprep, .notprep hneeds hprep, rfl⟩
  · have hwf : i.wellFormed = false := by simpa using hwf
    obtain ⟨k, hreason, he⟩ := exec_of_malformed hwf s
    cases he.symm.trans h
    exact .inr ⟨k, hreason, rfl⟩

/-- A fault sets the bit of its own code on its own port and no other (R35, R274). -/
theorem takeFault_bit {p q : PortId} {k : FaultCode} {s : State} {j : Nat} (hj : j < 5)
    (hk : j + 1 ≠ k.toNat) (h : ((takeFault p k s).fstat.get q).getLsbD j = true) :
    (s.fstat.get q).getLsbD j = true := by
  rw [takeFault_fstat] at h
  by_cases hq : q = p
  · subst hq
    rw [Ports.get_set_same, faultSet_getLsbD k _ hj] at h
    simpa [hk] using h
  · rwa [Ports.get_set_ne _ _ hq] at h

/-- A command without a reason for a code leaves the bit of that code clear where it was clear. -/
theorem exec_keeps_clear_bit {i : Instr} {k : FaultCode} {s t : State} (hk : ¬FaultReason i s k)
    (h : exec i s = .next t) (p : PortId)
    (hbit : (t.fstat.get p).getLsbD (k.toNat - 1) = true) :
    (s.fstat.get p).getLsbD (k.toNat - 1) = true := by
  rcases exec_fault_cases h with hnone | ⟨k', hreason, rfl⟩
  · exact hnone.bits p _ hbit
  · have hbounds := k.toNat_bounds
    have hcode : k.toNat ≠ k'.toNat := fun heq =>
      hk (FaultCode.toNat_injective heq ▸ hreason)
    exact takeFault_bit (by omega) (by omega) hbit

end Sys2Proof.Machine
end

section
/-! The obligation about the table of range faults (60_exceptions.md R279). -/

open Sys2Proof Sys2Proof.Machine

/-- Settles O18: the conditions of the table are what the command's own checks refuse
(`exec_of_rangeFault`), and without one there is no reason for code 5. -/
theorem rangeFaultTable : Obligations.RangeFaultTable := by
  intro i s _ hwf
  refine ⟨exec_of_rangeFault hwf, fun hrange t p h hbit => ?_⟩
  have hno : ¬FaultReason i s .range := by
    intro hreason
    cases hreason with
    | range hfault => cases hfault.symm.trans hrange
  exact exec_keeps_clear_bit hno h p hbit

end

section
/-! SUPPORT. PREPARED (10_state.md R35, 60_exceptions.md R278): every event but reset keeps a session
once there is one. -/

namespace Sys2Proof.Machine

@[simp] theorem filterMicro_prepared (c : Chan) (s : State) :
    (filterMicro c s).prepared = s.prepared := by
  rw [filterMicro_frame]

@[simp] theorem pushMicro_prepared (c : Chan) (s : State) :
    (pushMicro c s).prepared = s.prepared := by
  rw [pushMicro_frame]

@[simp] theorem respondMicro_prepared (s : State) : (respondMicro s).prepared = s.prepared := by
  rw [respondMicro_frame]

@[simp] theorem tickMicro_prepared (s : State) : (tickMicro s).prepared = s.prepared := by
  rw [tickMicro_frame]

@[simp] theorem acceptWord_prepared (p : PortId) (s : State) :
    (acceptWord p s).prepared = s.prepared := by
  rw [acceptWord_frame]

theorem fetch_prepared {p : PortId} {s t : State} {packet : List Word}
    (h : fetch p s = some (packet, t)) : t.prepared = s.prepared := by
  rw [fetch_frame h]

/-- A command that faults changes no session, and one that does not ends none. -/
theorem exec_prepared (i : Instr) {s t : State} (hprep : s.prepared = true)
    (h : exec i s = .next t) : t.prepared = true := by
  rcases exec_fault_cases h with hnone | ⟨k, _, rfl⟩
  · exact hnone.session hprep
  · exact hprep

/-- The same of a command run as its first micro-step only (R75). -/
theorem beginCommand_prepared (i : Instr) {s t : State} (hprep : s.prepared = true)
    (h : beginCommand i s = .next t) : t.prepared = true := by
  rcases beginCommand_cases i s with he | ⟨_, _, _, _, _, _, he⟩ | ⟨_, _, _, _, he⟩
  · exact exec_prepared i hprep (he.symm.trans h)
  · cases he.symm.trans h
    exact hprep
  · cases he.symm.trans h
    exact hprep

/-- Serving a port keeps the session when running a command does. -/
theorem serve_prepared {run : Instr → State → Out State}
    (hrun : ∀ i {s t : State}, s.prepared = true → run i s = .next t → t.prepared = true)
    {p : PortId} {s t : State} (hprep : s.prepared = true) (h : serve run p s = .next t) :
    t.prepared = true := by
  rcases serve_cases run p s with
    he | ⟨packet, u, i, _, hfetch, _, he⟩ | ⟨packet, u, k, _, hfetch, _, he⟩
  · cases he.symm.trans h
    exact hprep
  · exact hrun i ((fetch_prepared hfetch).trans hprep) (he.symm.trans h)
  · cases he.symm.trans h
    exact (fetch_prepared hfetch).trans hprep

theorem runEvent_prepared {e : Event} (he : e ≠ .reset) {s t : State} (hprep : s.prepared = true)
    (h : runEvent e s = .next t) : t.prepared = true := by
  cases e
  case command p => exact serve_prepared exec_prepared hprep h
  case start p => exact serve_prepared beginCommand_prepared hprep h
  case reset => exact absurd rfl he
  all_goals
    cases h
    simp [hprep]

/-- A step that ends a session is the agenda's reset (R278). -/
theorem sched_head_of_session_ended {s t : State} (hprep : s.prepared = true)
    (h : step s = .next t) (hended : t.prepared = false) : s.sched.head? = some .reset := by
  rcases step_cases h with ⟨_, rfl⟩ | ⟨e, es, hnext, hrun⟩
  · cases hprep.symm.trans hended
  · by_cases he : e = .reset
    · subst he
      exact sched_head_of_nextEvent_reset hnext
    · have hkept : t.prepared = true := runEvent_prepared (s := { s with sched := es }) he hprep hrun
      cases hkept.symm.trans hended

end Sys2Proof.Machine
end

section
/-! The obligation about commands outside a session (60_exceptions.md R278). -/

open Sys2Proof Sys2Proof.Machine

/-- Settles O17: the first check the six commands share (`exec_of_not_prepared`), no reason for code 4
in the other cases, and only a reset among the events ends a session. -/
theorem notPreparedFaults : Obligations.NotPreparedFaults := by
  refine ⟨fun i s => exec_of_not_prepared, fun i s t p hcase h hbit => ?noReason,
    fun s t => sched_head_of_session_ended⟩
  case noReason =>
    have hno : ¬FaultReason i s .notprep := by
      intro hreason
      cases hreason with
      | notprep hneeds hprep =>
        rcases hcase with hfree | hsession
        · cases hneeds.symm.trans hfree
        · cases hsession.symm.trans hprep
    exact exec_keeps_clear_bit hno h p hbit

end

section
/-! SUPPORT. Where the decoder reads a name, the header holds that name's number (30_encoding.md R91 to
R96): a header that is a command head has no field fault (R99, 60_exceptions.md R276). -/

namespace Sys2Proof

theorem Sec.eq_toNat_of_ofNat? {n : Nat} {k : Sec} (h : Sec.ofNat? n = some k) : n = k.toNat := by
  unfold Sec.ofNat? at h
  split at h <;> cases h <;> rfl

theorem Pos.eq_toNat_of_ofNat? {n : Nat} {pos : Pos} (h : Pos.ofNat? n = some pos) :
    n = pos.toNat := by
  unfold Pos.ofNat? at h
  split at h <;> cases h <;> rfl

theorem Cut.eq_toNat_of_ofNat? {n : Nat} {c : Cut} (h : Cut.ofNat? n = some c) : n = c.toNat := by
  unfold Cut.ofNat? at h
  split at h <;> cases h <;> rfl

theorem ChanCount.eq_toNat_of_ofNat? {n : Nat} {c : ChanCount} (h : ChanCount.ofNat? n = some c) :
    n = c.toNat := by
  unfold ChanCount.ofNat? at h
  split at h <;> cases h <;> rfl

theorem Csr.eq_addr_of_ofAddr? {n : Nat} {r : Csr} (h : Csr.ofAddr? n = some r) : n = r.addr := by
  unfold Csr.ofAddr? at h
  split at h <;> cases h <;> rfl

theorem Op.eq_code_of_ofCode? {n : Nat} {op : Op} (h : Op.ofCode? n = some op) : n = op.code := by
  unfold Op.ofCode? at h
  split at h <;> cases h <;> rfl

theorem Cut.toNat_eq_zero_or_four (c : Cut) : c.toNat = 0 ∨ c.toNat = 4 := by cases c <;> decide

theorem ChanCount.toNat_ne (c : ChanCount) : c.toNat ≠ 0 ∧ c.toNat ≠ 3 := by cases c <;> decide

theorem Csr.addr_le (r : Csr) : r.addr ≤ 0xB := by cases r <;> decide

/-- The addresses of the registers a port may write (R36, R258). -/
theorem Csr.addr_of_writable {p : PortId} {r : Csr} (hw : r.writable p = true) :
    r.addr = 2 ∨ p = .v ∧ (r.addr = 5 ∨ r.addr = 6) := by
  have hkind : r = .fclr ∨ p = .v ∧ (r = .ctrl ∨ r = .floor) := by
    by_contra hneither
    have hreadOnly := (Csr.writable_eq_false_iff p r).mpr (not_or.mp hneither)
    cases hw.symm.trans hreadOnly
  rcases hkind with rfl | ⟨rfl, rfl | rfl⟩
  exacts [.inl rfl, .inr ⟨rfl, .inl rfl⟩, .inr ⟨rfl, .inr rfl⟩]

/-- A pair that names a stage of ST has a legal position and section, section 0 at a peak (R21). -/
theorem Stage.legal_of_ofNats? {pos sec : Nat} {st : Stage} (h : Stage.ofNats? pos sec = some st) :
    pos ≤ 4 ∧ sec ≤ 3 ∧ (1 ≤ pos → pos ≤ 3 → sec = 0) := by
  unfold Stage.ofNats? at h
  split at h
  case h_1 c k hpos hsec =>
    rw [Pos.eq_toNat_of_ofNat? hpos, Sec.eq_toNat_of_ofNat? hsec]
    refine ⟨(Pos.cut c).toNat_le_four, k.toNat_le_three, ?_⟩
    have hend : (Pos.cut c).toNat = 0 ∨ (Pos.cut c).toNat = 4 := c.toNat_eq_zero_or_four
    omega
  case h_2 k hpos hsec =>
    rw [Pos.eq_toNat_of_ofNat? hpos, Sec.eq_toNat_of_ofNat? hsec]
    exact ⟨(Pos.peak k).toNat_le_four, Nat.zero_le 3, fun _ _ => rfl⟩
  case h_3 => cases h

variable {p : PortId} {h : Word} {hd : Head}

theorem legal_of_stageOperand? {st : Stage} (hst : stageOperand? h = some st) :
    (zeroFieldsS h && chField h == 0 && flagField h == 0) = true ∧ StageFields h := by
  obtain ⟨hguard, hst⟩ := Option.ite_none_right_eq_some.mp hst
  exact ⟨hguard, Stage.legal_of_ofNats? hst⟩

theorem legal_of_headOf?_setbyp (hhead : headOf? p .setbyp h = some hd) :
    LegalFields p .setbyp h := by
  obtain ⟨hguard, hnames⟩ := Option.ite_none_right_eq_some.mp hhead
  split at hnames
  next pos flag hpos _ => exact ⟨hguard, Pos.eq_toNat_of_ofNat? hpos ▸ pos.toNat_le_four⟩
  next => cases hnames

theorem legal_of_headOf?_cutupd (hhead : headOf? p .cutupd h = some hd) :
    LegalFields p .cutupd h := by
  obtain ⟨hguard, hnames⟩ := Option.ite_none_right_eq_some.mp hhead
  split at hnames
  next cut slope hcut hslope =>
    exact ⟨hguard, Cut.eq_toNat_of_ofNat? hcut ▸ cut.toNat_eq_zero_or_four,
      Sec.eq_toNat_of_ofNat? hslope ▸ slope.toNat_le_three⟩
  next => cases hnames

theorem legal_of_headOf?_proc (hhead : headOf? p .proc h = some hd) : LegalFields p .proc h := by
  obtain ⟨hzero, hnames⟩ := Option.ite_none_right_eq_some.mp hhead
  obtain ⟨nch, hnch, _⟩ := Option.map_eq_some_iff.mp hnames
  exact ⟨hzero, ChanCount.eq_toNat_of_ofNat? hnch ▸ nch.toNat_ne⟩

theorem legal_of_headOf?_rddly (hhead : headOf? p .rddly h = some hd) : LegalFields p .rddly h := by
  obtain ⟨hguard, hnames⟩ := Option.ite_none_right_eq_some.mp hhead
  split at hnames
  next st ch hst _ => exact ⟨hguard, Stage.legal_of_ofNats? hst⟩
  next => cases hnames

theorem legal_of_csrOperand? {r : Csr} (hr : csrOperand? h = some r) :
    zeroFieldsC h = true ∧ fieldOf h 15 0 = r.addr := by
  obtain ⟨hzero, hr⟩ := Option.ite_none_right_eq_some.mp hr
  exact ⟨hzero, Csr.eq_addr_of_ofAddr? hr⟩

theorem legal_of_headOf?_wrcsr (hhead : headOf? p .wrcsr h = some hd) : LegalFields p .wrcsr h := by
  cases hr : csrOperand? h with
  | none => simp [headOf?, hr] at hhead
  | some r =>
    simp only [headOf?, hr] at hhead
    obtain ⟨hwritable, _⟩ := Option.ite_none_right_eq_some.mp hhead
    obtain ⟨hzero, haddr⟩ := legal_of_csrOperand? hr
    exact ⟨hzero, haddr ▸ Csr.addr_of_writable hwritable⟩

/-- A header that is a command head has legal fields, the converse of `headOf?_paylen` (R99). -/
theorem legalFields_of_headOf? {op : Op} (hhead : headOf? p op h = some hd) : LegalFields p op h := by
  cases op
  case nop | prepare | magq | tick | tcdirty => exact (Option.ite_none_right_eq_some.mp hhead).1
  case setcoef | rdcoef =>
    obtain ⟨st, hst, _⟩ := Option.map_eq_some_iff.mp hhead
    exact legal_of_stageOperand? hst
  case pull | fftrun | pathgen | rdframe | rdpath =>
    obtain ⟨ch, hch, _⟩ := Option.map_eq_some_iff.mp hhead
    exact (Option.ite_none_right_eq_some.mp hch).1
  case rdcsr =>
    obtain ⟨r, hr, _⟩ := Option.map_eq_some_iff.mp hhead
    obtain ⟨hzero, haddr⟩ := legal_of_csrOperand? hr
    exact ⟨hzero, haddr ▸ r.addr_le⟩
  case setbyp => exact legal_of_headOf?_setbyp hhead
  case cutupd => exact legal_of_headOf?_cutupd hhead
  case proc => exact legal_of_headOf?_proc hhead
  case rddly => exact legal_of_headOf?_rddly hhead
  case wrcsr => exact legal_of_headOf?_wrcsr hhead

variable {op : Op} (hcode : fieldOf h 31 24 = op.code) (hport : op.onPort p = true) (ws : List Word)
include hcode hport

/-- A header that is no command head faults with code 2, whatever its payload is (R100). -/
theorem decode_of_headOf?_none (hhead : headOf? p op h = none) :
    decode p (h :: ws) = .bad .field := by
  simp only [decode, hcode, Op.ofCode?_code, hport, hhead, if_true]

/-- A header that is a command head is a command or has the wrong length (R97, R100). -/
theorem decode_of_headOf?_some (hhead : headOf? p op h = some hd) :
    (∃ i, decode p (h :: ws) = .ok i) ∨ decode p (h :: ws) = .bad .len := by
  obtain ⟨hok, hbad⟩ := decode_of_headOf? (ws := ws) hcode hport hhead
  by_cases hlen : ws.length = hd.paylen
  · exact .inl (hok hlen)
  · exact .inr (hbad hlen)

theorem decode_eq_field_iff : decode p (h :: ws) = .bad .field ↔ headOf? p op h = none := by
  refine ⟨fun hfield => ?_, decode_of_headOf?_none hcode hport ws⟩
  cases hhead : headOf? p op h with
  | none => rfl
  | some hd =>
    rcases decode_of_headOf?_some hcode hport ws hhead with ⟨i, hok⟩ | hlen
    · cases hok.symm.trans hfield
    · cases hlen.symm.trans hfield

end Sys2Proof
end

section
/-! The obligation about the table of field faults (60_exceptions.md R276). -/

open Sys2Proof Sys2Proof.Machine

/-- Settles O5: decoding answers code 2 where the header is no command head, and it is one exactly
where its fields are legal (`legalFields_of_headOf?`, `headOf?_paylen`), which is the table read
backwards (`legalFields_iff`). -/
theorem fieldFaultTable : Obligations.FieldFaultTable := by
  intro p op h ws hcode hport
  rw [decode_eq_field_iff hcode hport]
  constructor
  · intro hnone
    by_contra hfault
    obtain ⟨hd, hhead, _⟩ := headOf?_paylen ((legalFields_iff p op h).mpr (by simpa using hfault))
    cases hnone.symm.trans hhead
  · intro hfault
    by_contra hsome
    obtain ⟨hd, hhead⟩ := Option.ne_none_iff_exists'.mp hsome
    have hlegal := (legalFields_iff p op h).mp (legalFields_of_headOf? hhead)
    cases hfault.symm.trans hlegal

end

section
/-! SUPPORT. The opcodes each port defines (60_exceptions.md R272), and the step that takes a packet
which does not decode (R274). -/

namespace Sys2Proof

/-- The opcodes of port A are 0x00 to 0x0A (R272). -/
theorem Op.exists_code_portA {n : Nat} :
    (∃ op : Op, n = op.code ∧ op.onPort .a = true) ↔ n ≤ 0x0A := by
  constructor
  · rintro ⟨op, rfl, hport⟩
    revert hport
    cases op <;> decide
  · intro hn
    interval_cases n
    exacts [⟨.nop, rfl, rfl⟩, ⟨.prepare, rfl, rfl⟩, ⟨.setcoef, rfl, rfl⟩, ⟨.setbyp, rfl, rfl⟩,
      ⟨.cutupd, rfl, rfl⟩, ⟨.proc, rfl, rfl⟩, ⟨.magq, rfl, rfl⟩, ⟨.rdcsr, rfl, rfl⟩,
      ⟨.wrcsr, rfl, rfl⟩, ⟨.rdcoef, rfl, rfl⟩, ⟨.rddly, rfl, rfl⟩]

/-- The opcodes of port V are those of the three shared commands and 0x10 to 0x16 (R272). -/
theorem Op.exists_code_portV {n : Nat} :
    (∃ op : Op, n = op.code ∧ op.onPort .v = true) ↔
      n = 0x00 ∨ n = 0x07 ∨ n = 0x08 ∨ (0x10 ≤ n ∧ n ≤ 0x16) := by
  constructor
  · rintro ⟨op, rfl, hport⟩
    revert hport
    cases op <;> decide
  · rintro (rfl | rfl | rfl | ⟨hlow, hhigh⟩)
    · exact ⟨.nop, rfl, rfl⟩
    · exact ⟨.rdcsr, rfl, rfl⟩
    · exact ⟨.wrcsr, rfl, rfl⟩
    · interval_cases n
      exacts [⟨.pull, rfl, rfl⟩, ⟨.fftrun, rfl, rfl⟩, ⟨.pathgen, rfl, rfl⟩, ⟨.rdframe, rfl, rfl⟩,
        ⟨.rdpath, rfl, rfl⟩, ⟨.tick, rfl, rfl⟩, ⟨.tcdirty, rfl, rfl⟩]

/-- Code 1 is the answer to an opcode the port does not define, whatever follows it (R100, R272). -/
theorem decode_eq_illop_iff (p : PortId) (h : Word) (ws : List Word) :
    decode p (h :: ws) = .bad .illop ↔
      ¬∃ op : Op, fieldOf h 31 24 = op.code ∧ op.onPort p = true := by
  constructor
  · rintro hillop ⟨op, hcode, hport⟩
    cases hhead : headOf? p op h with
    | none => cases (decode_of_headOf?_none hcode hport ws hhead).symm.trans hillop
    | some hd =>
      rcases decode_of_headOf?_some hcode hport ws hhead with ⟨i, hok⟩ | hlen
      · cases hok.symm.trans hillop
      · cases hlen.symm.trans hillop
  · intro hundefined
    cases hop : Op.ofCode? (fieldOf h 31 24) with
    | none => simp only [decode, hop]
    | some op =>
      simp only [decode, hop]
      exact if_neg fun hport => hundefined ⟨op, Op.eq_code_of_ofCode? hop, hport⟩

end Sys2Proof

namespace Sys2Proof.Machine

variable {s : State} {p : PortId} {ws : List Word} {rest : List CmdBeat}

/-- A packet laid out on a port's stream is taken off it whole, after the words accepted before (R61,
R103). -/
theorem fetch_of_packetBeats (hne : ws ≠ []) (hcmd : (s.io.get p).cmd = packetBeats ws ++ rest) :
    fetch p s =
      some ((s.io.get p).rx ++ ws, { s with io := s.io.set p ⟨rest, [], (s.io.get p).rsp⟩ }) := by
  rw [fetch, hcmd, takePacket_packetBeats ws rest hne]
  rfl

/-- Serving or starting a complete packet that does not decode takes its fault (R100, R274). -/
theorem serve_of_decode_bad (run : Instr → State → Out State) {k : FaultCode}
    (hidle : busy p s = false) (hne : ws ≠ [])
    (hcmd : (s.io.get p).cmd = packetBeats ws ++ rest)
    (hbad : decode p ((s.io.get p).rx ++ ws) = .bad k) :
    serve run p s =
      .next (takeFault p k { s with io := s.io.set p ⟨rest, [], (s.io.get p).rsp⟩ }) := by
  simp only [serve, hidle, fetch_of_packetBeats hne hcmd, hbad, Bool.false_eq_true, if_false]

/-- The step that serves or starts such a packet consumes it whole and takes its fault (R274). -/
theorem step_of_decode_bad {es : List Event} {k : FaultCode}
    (hnext : nextEvent s = some (.command p, es) ∨ nextEvent s = some (.start p, es))
    (hidle : busy p s = false) (hne : ws ≠ [])
    (hcmd : (s.io.get p).cmd = packetBeats ws ++ rest)
    (hbad : decode p ((s.io.get p).rx ++ ws) = .bad k) :
    step s = .next (takeFault p k
      { s with sched := es, io := s.io.set p ⟨rest, [], (s.io.get p).rsp⟩ }) := by
  have hserve (run : Instr → State → Out State) :=
    serve_of_decode_bad (s := { s with sched := es }) run hidle hne hcmd hbad
  rcases hnext with hcommand | hstart
  · exact (step_of_nextEvent hcommand).trans (hserve exec)
  · exact (step_of_nextEvent hstart).trans (hserve beginCommand)

end Sys2Proof.Machine
end

section
/-! The obligation about undefined opcodes (60_exceptions.md R272). -/

open Sys2Proof Sys2Proof.Machine

/-- Settles O4: code 1 is the answer where no command of the port has the opcode
(`decode_eq_illop_iff`), the opcodes of each port are the rule's, and the step is
`step_of_decode_bad`. -/
theorem undefinedOpcodeFaults : Obligations.UndefinedOpcodeFaults := by
  refine ⟨fun p h ws => ?opcodes, fun s p ws rest es => step_of_decode_bad⟩
  case opcodes =>
    cases p with
    | a =>
      exact (decode_eq_illop_iff .a h ws).trans
        ((not_congr Op.exists_code_portA).trans Nat.not_le)
    | v => exact (decode_eq_illop_iff .v h ws).trans (not_congr Op.exists_code_portV)

end

section
/-! SUPPORT. The indexed elements of state after reset (70_reset_and_hazards.md R301), and the two
read-backs of an analyzer that holds nothing (45_analyzer.md R236, R237). -/

namespace Sys2Proof.Machine

section
variable (c : Config) (ch : Chan)

@[simp] theorem resetWith_coef_get (st : Stage) :
    (State.resetWith c).coef.get st = identityCoef := Bank.get_all identityCoef st

@[simp] theorem resetWith_dly_get (st : Stage) :
    ((State.resetWith c).dly.get ch).get st = Delay.zero := by
  show ((Chans.all (Bank.all Delay.zero)).get ch).get st = Delay.zero
  rw [Chans.get_all, Bank.get_all]

/-- No position is bypassed as a whole (R30). -/
@[simp] theorem resetWith_pbyp_get (p : Pos) : (State.resetWith c).pbyp.get p = false := by
  cases p with
  | cut k => cases k <;> rfl
  | peak k => cases k <;> rfl

@[simp] theorem resetWith_slope_get (k : Cut) : (State.resetWith c).slope.get k = .s0 := by
  cases k <;> rfl

/-- The section flags follow from the slope orders (R32). -/
theorem resetWith_sbyp_get (k : Cut) (j : Sec) :
    ((State.resetWith c).sbyp.get k).get j = bypassedAt .s0 j := by
  rw [resetWith_slopesAgree c k j, resetWith_slope_get]

@[simp] theorem resetWith_fstat_get (p : PortId) : (State.resetWith c).fstat.get p = 0#5 := by
  cases p <;> rfl

@[simp] theorem resetWith_acc_get : (State.resetWith c).acc.get ch = [] := Chans.get_all [] ch

@[simp] theorem resetWith_queue_get : (State.resetWith c).queue.get ch = [] := Chans.get_all [] ch

@[simp] theorem resetWith_roll_get :
    (State.resetWith c).roll.get ch = List.replicate (2 ^ c.order) 0#32 := Chans.get_all _ ch

@[simp] theorem resetWith_fq_get : (State.resetWith c).fq.get ch = [] := Chans.get_all [] ch

@[simp] theorem resetWith_curframe_get : (State.resetWith c).curframe.get ch = none :=
  Chans.get_all none ch

@[simp] theorem resetWith_curpath_get : (State.resetWith c).curpath.get ch = [] :=
  Chans.get_all [] ch

end

/-- With an empty path RDPATH responds the single word 0 (R237). -/
theorem exec_rdpath_of_nil {ch : Chan} {s : State} (h : s.curpath.get ch = []) :
    exec (.rdpath ch) s = .next (s.withResponse .v (rspPacket false [countWord 0])) := by
  rw [exec_rdpath, h]
  rfl

end Sys2Proof.Machine
end

section
/-! The obligation about the reset values (70_reset_and_hazards.md R301). -/

open Sys2Proof Sys2Proof.Machine

/-- Settles O14: the elements of state are the `resetWith_…_get` lemmas; the words of FSTAT, CTRL,
SLOPE and BYPASS after reset are those of O24, O25 and O26, the others an arm of `csrRead` each; and
the two read-backs find no frame and an empty path. -/
theorem resetValues : Obligations.ResetValues := by
  refine ⟨fun c s hs => ?elements, fun p => ?csrWords, fun c ch => ?readBacks⟩
  case elements =>
    subst hs
    have hsections (k : Cut) := resetWith_sbyp_get c k
    have hslope (k : Cut) : ((State.resetWith c).slope.get k).toNat = 0 := by
      rw [resetWith_slope_get]
      rfl
    exact ⟨resetWith_coef_get c, resetWith_dly_get c, resetWith_pbyp_get c,
      fun k => ⟨hsections k .s0, hsections k .s1, hsections k .s2, hsections k .s3⟩,
      hslope, rfl, rfl, rfl,
      fun ch => ⟨resetWith_acc_get c ch, resetWith_queue_get c ch, resetWith_roll_get c ch,
        resetWith_fq_get c ch, resetWith_curframe_get c ch, resetWith_curpath_get c ch⟩,
      rfl, rfl, rfl, resetWith_fstat_get c⟩
  case csrWords =>
    obtain ⟨_, _, _, hfstat⟩ := fstatBits
    obtain ⟨_, _, hctrl⟩ := ctrlHoldsAnen
    obtain ⟨_, _, hflags⟩ := slopeAndBypassBits
    obtain ⟨hslope, hbypass⟩ := hflags p
    exact ⟨rfl, hfstat p, rfl, rfl, rfl, hctrl p, rfl, hslope, hbypass, rfl, rfl, rfl⟩
  case readBacks =>
    exact ⟨exec_rdframe_of_none (resetWith_curframe_get c ch),
      exec_rdpath_of_nil (resetWith_curpath_get c ch)⟩

end

section
/-! SUPPORT. The command head a command has (30_encoding.md R91 to R97): its opcode, port, header and
payload length, and that the names in it and the numbers in the header determine each other. -/

namespace Sys2Proof

/-- The header of a command as names. -/
def Instr.head : Instr → Head
  | .nop p => .nop p
  | .prepare _ _ => .prepare
  | .setcoef st _ => .setcoef st
  | .setbyp pos flag => .setbyp pos flag
  | .cutupd cut slope _ => .cutupd cut slope
  | .proc nch n _ => .proc nch n
  | .magq _ => .magq
  | .rdcsr p r => .rdcsr p r
  | .wrcsr p r _ => .wrcsr p r
  | .rdcoef st => .rdcoef st
  | .rddly st ch => .rddly st ch
  | .pull ch => .pull ch
  | .fftrun ch => .fftrun ch
  | .pathgen ch _ => .pathgen ch
  | .rdframe ch => .rdframe ch
  | .rdpath ch => .rdpath ch
  | .tick _ => .tick
  | .tcdirty => .tcdirty

/-- The row of the opcode map a head is of (R96). -/
def Head.op : Head → Op
  | .nop _ => .nop
  | .prepare => .prepare
  | .setcoef _ => .setcoef
  | .setbyp _ _ => .setbyp
  | .cutupd _ _ => .cutupd
  | .proc _ _ => .proc
  | .magq => .magq
  | .rdcsr _ _ => .rdcsr
  | .wrcsr _ _ => .wrcsr
  | .rdcoef _ => .rdcoef
  | .rddly _ _ => .rddly
  | .pull _ => .pull
  | .fftrun _ => .fftrun
  | .pathgen _ => .pathgen
  | .rdframe _ => .rdframe
  | .rdpath _ => .rdpath
  | .tick => .tick
  | .tcdirty => .tcdirty

/-- The port a head belongs to (20_memory.md R64). -/
def Head.port : Head → PortId
  | .nop p | .rdcsr p _ | .wrcsr p _ => p
  | .prepare | .setcoef _ | .setbyp _ _ | .cutupd _ _ | .proc _ _ | .magq | .rdcoef _
  | .rddly _ _ => .a
  | .pull _ | .fftrun _ | .pathgen _ | .rdframe _ | .rdpath _ | .tick | .tcdirty => .v

/-- The check R99 leaves to a head: WRCSR names a register its port may write. -/
def Head.legal : Head → Bool
  | .wrcsr p r => r.writable p
  | _ => true

/-- The header word of a head (R91 to R96). -/
def Head.header : Head → Word
  | .nop _ => headerZ .nop
  | .prepare => headerZ .prepare
  | .setcoef st => headerS .setcoef st.pos.toNat st.sec.toNat 0 0
  | .setbyp pos flag => headerS .setbyp pos.toNat 0 0 flag.toNat
  | .cutupd cut s => headerS .cutupd cut.toNat s.toNat 0 0
  | .proc nch n => headerB .proc nch.toNat n.toNat
  | .magq => headerZ .magq
  | .rdcsr _ r => headerC .rdcsr r.addr
  | .wrcsr _ r => headerC .wrcsr r.addr
  | .rdcoef st => headerS .rdcoef st.pos.toNat st.sec.toNat 0 0
  | .rddly st ch => headerS .rddly st.pos.toNat st.sec.toNat ch.toNat 0
  | .pull ch => headerS .pull 0 0 ch.toNat 0
  | .fftrun ch => headerS .fftrun 0 0 ch.toNat 0
  | .pathgen ch => headerS .pathgen 0 0 ch.toNat 0
  | .rdframe ch => headerS .rdframe 0 0 ch.toNat 0
  | .rdpath ch => headerS .rdpath 0 0 ch.toNat 0
  | .tick => headerZ .tick
  | .tcdirty => headerZ .tcdirty

theorem Instr.head_header (i : Instr) : i.head.header = i.header := by cases i <;> rfl

theorem Instr.head_port (i : Instr) : i.head.port = i.port := by cases i <;> rfl

theorem Head.op_onPort (hd : Head) : hd.op.onPort hd.port = true := by cases hd <;> rfl

/-! The names read back from their own numbers (R93 to R95). -/

@[simp] theorem Sec.ofNat?_toNat (k : Sec) : Sec.ofNat? k.toNat = some k := by cases k <;> rfl

@[simp] theorem Pos.ofNat?_toNat (pos : Pos) : Pos.ofNat? pos.toNat = some pos := by
  rcases pos with c | k
  · cases c <;> rfl
  · cases k <;> rfl

@[simp] theorem Cut.ofNat?_toNat (c : Cut) : Cut.ofNat? c.toNat = some c := by cases c <;> rfl

@[simp] theorem Chan.ofNat?_toNat (c : Chan) : Chan.ofNat? c.toNat = some c := by cases c <;> rfl

@[simp] theorem ChanCount.ofNat?_toNat (c : ChanCount) : ChanCount.ofNat? c.toNat = some c := by
  cases c <;> rfl

@[simp] theorem flagOfNat?_toNat (b : Bool) : flagOfNat? b.toNat = some b := by cases b <;> rfl

@[simp] theorem Csr.ofAddr?_addr (r : Csr) : Csr.ofAddr? r.addr = some r := by cases r <;> rfl

@[simp] theorem Stage.ofNats?_toNat (st : Stage) :
    Stage.ofNats? st.pos.toNat st.sec.toNat = some st := by
  cases st with
  | cut c k => simp only [Stage.ofNats?, Pos.ofNat?_toNat, Sec.ofNat?_toNat, Stage.pos, Stage.sec]
  | peak k => simp only [Stage.ofNats?, Pos.ofNat?_toNat, Sec.ofNat?_toNat, Stage.pos, Stage.sec]

theorem Chan.eq_toNat_of_ofNat? {n : Nat} {c : Chan} (h : Chan.ofNat? n = some c) :
    n = c.toNat := by
  unfold Chan.ofNat? at h
  split at h <;> cases h <;> rfl

theorem eq_toNat_of_flagOfNat? {n : Nat} {b : Bool} (h : flagOfNat? n = some b) : n = b.toNat := by
  unfold flagOfNat? at h
  split at h <;> cases h <;> rfl

theorem Stage.eq_toNat_of_ofNats? {pos sec : Nat} {st : Stage}
    (h : Stage.ofNats? pos sec = some st) : pos = st.pos.toNat ∧ sec = st.sec.toNat := by
  unfold Stage.ofNats? at h
  split at h
  case h_1 c k hpos hsec =>
    cases h
    exact ⟨Pos.eq_toNat_of_ofNat? hpos, Sec.eq_toNat_of_ofNat? hsec⟩
  case h_2 k hpos hsec =>
    cases h
    exact ⟨Pos.eq_toNat_of_ofNat? hpos, Sec.eq_toNat_of_ofNat? hsec⟩
  case h_3 => cases h

/-! A header is the sum of its fields: whatever its format leaves out is 0 (R91 to R95). -/

section
variable {h : Word} {op : Op} (hcode : fieldOf h 31 24 = op.code)
include hcode

theorem eq_headerZ (hzero : zeroFieldsZ h = true) : h = headerZ op := by
  have hlt := h.isLt
  apply BitVec.eq_of_toNat_eq
  simp only [zeroFieldsZ, fieldOf, beq_iff_eq, headerZ, BitVec.toNat_ofNat] at *
  omega

theorem eq_headerS (hzero : zeroFieldsS h = true) :
    h = headerS op (posField h) (secField h) (chField h) (flagField h) := by
  have hlt := h.isLt
  apply BitVec.eq_of_toNat_eq
  simp only [zeroFieldsS, posField, secField, chField, flagField, fieldOf, Bool.and_eq_true,
    beq_iff_eq, headerS, BitVec.toNat_ofNat] at *
  omega

theorem eq_headerB (hzero : zeroFieldsB h = true) :
    h = headerB op (fieldOf h 17 16) (fieldOf h 15 0) := by
  have hlt := h.isLt
  apply BitVec.eq_of_toNat_eq
  simp only [zeroFieldsB, fieldOf, beq_iff_eq, headerB, BitVec.toNat_ofNat] at *
  omega

theorem eq_headerC (hzero : zeroFieldsC h = true) : h = headerC op (fieldOf h 15 0) := by
  have hlt := h.isLt
  apply BitVec.eq_of_toNat_eq
  simp only [zeroFieldsC, fieldOf, beq_iff_eq, headerC, BitVec.toNat_ofNat] at *
  omega

end

/-! What the field readers find in a header written from names. -/

theorem zeroFieldsZ_headerZ (op : Op) : zeroFieldsZ (headerZ op) = true :=
  beq_iff_eq.mpr (headerZ_fields op).2

theorem stageOperand?_headerS (op : Op) (st : Stage) :
    stageOperand? (headerS op st.pos.toNat st.sec.toNat 0 0) = some st := by
  obtain ⟨_, hpos, hsec, hhigh, hch, hlow, hflag⟩ := headerS_fields op st.pos.toNat_lt
    st.sec.toNat_lt (ch := 0) (flag := 0) (by decide) (by decide)
  simp [stageOperand?, zeroFieldsS, posField, secField, chField, flagField, hpos, hsec, hhigh, hch,
    hlow, hflag]

theorem chanOperand?_headerS (op : Op) (ch : Chan) :
    chanOperand? (headerS op 0 0 ch.toNat 0) = some ch := by
  obtain ⟨_, hpos, hsec, hhigh, hch, hlow, hflag⟩ := headerS_fields op (pos := 0) (sec := 0)
    (flag := 0) (by decide) (by decide) ch.toNat_lt (by decide)
  simp [chanOperand?, zeroFieldsS, posField, secField, chField, flagField, hpos, hsec, hhigh, hch,
    hlow, hflag]

theorem csrOperand?_headerC (op : Op) (r : Csr) : csrOperand? (headerC op r.addr) = some r := by
  obtain ⟨_, hzero, haddr⟩ := headerC_fields op r.addr_lt
  simp [csrOperand?, zeroFieldsC, hzero, haddr]

/-- A header carries the opcode of its head (R96). -/
theorem Head.header_code (hd : Head) : fieldOf hd.header 31 24 = hd.op.code := by
  cases hd
  case nop | prepare | magq | tick | tcdirty => exact (headerZ_fields _).1
  case setcoef st | rdcoef st =>
    exact (headerS_fields _ st.pos.toNat_lt st.sec.toNat_lt (by decide) (by decide)).1
  case setbyp pos flag =>
    exact (headerS_fields _ pos.toNat_lt (by decide) (by decide) flag.toNat_lt).1
  case cutupd cut slope =>
    exact (headerS_fields _ (Pos.cut cut).toNat_lt slope.toNat_lt (by decide) (by decide)).1
  case proc nch n => exact (headerB_fields _ nch.toNat_lt n.isLt).1
  case rdcsr p r | wrcsr p r => exact (headerC_fields _ r.addr_lt).1
  case rddly st ch =>
    exact (headerS_fields _ st.pos.toNat_lt st.sec.toNat_lt ch.toNat_lt (by decide)).1
  case pull ch | fftrun ch | pathgen ch | rdframe ch | rdpath ch =>
    exact (headerS_fields _ (by decide) (by decide) ch.toNat_lt (by decide)).1

/-- The header of a legal head is read back as that head (R91 to R99). -/
theorem Head.headOf?_header {hd : Head} (hlegal : hd.legal = true) :
    headOf? hd.port hd.op hd.header = some hd := by
  cases hd
  case nop | prepare | magq | tick | tcdirty =>
    simp [headOf?, Head.op, Head.port, Head.header, zeroFieldsZ_headerZ]
  case setcoef st | rdcoef st => exact congrArg (Option.map _) (stageOperand?_headerS _ st)
  case pull ch | fftrun ch | pathgen ch | rdframe ch | rdpath ch =>
    exact congrArg (Option.map _) (chanOperand?_headerS _ ch)
  case rdcsr p r => exact congrArg (Option.map _) (csrOperand?_headerC _ r)
  case wrcsr p r =>
    have hwritable : r.writable p = true := hlegal
    simp [headOf?, Head.op, Head.port, Head.header, csrOperand?_headerC, hwritable]
  case setbyp pos flag =>
    obtain ⟨_, hpos, hsec, hhigh, hch, hlow, hflag⟩ := headerS_fields .setbyp pos.toNat_lt
      (sec := 0) (ch := 0) (by decide) (by decide) flag.toNat_lt
    simp [headOf?, Head.op, Head.header, zeroFieldsS, posField, secField, chField, flagField, hpos,
      hsec, hhigh, hch, hlow, hflag]
  case cutupd cut slope =>
    obtain ⟨_, hpos, hsec, hhigh, hch, hlow, hflag⟩ := headerS_fields .cutupd
      (pos := cut.toNat) (Pos.cut cut).toNat_lt slope.toNat_lt (ch := 0) (flag := 0) (by decide)
      (by decide)
    simp [headOf?, Head.op, Head.header, zeroFieldsS, posField, secField, chField, flagField, hpos,
      hsec, hhigh, hch, hlow, hflag]
  case rddly st ch =>
    obtain ⟨_, hpos, hsec, hhigh, hch, hlow, hflag⟩ := headerS_fields .rddly st.pos.toNat_lt
      st.sec.toNat_lt (flag := 0) ch.toNat_lt (by decide)
    simp [headOf?, Head.op, Head.header, zeroFieldsS, posField, secField, chField, flagField, hpos,
      hsec, hhigh, hch, hlow, hflag]
  case proc nch n =>
    obtain ⟨_, hzero, hnch, hn⟩ := headerB_fields .proc nch.toNat_lt n.isLt
    simp [headOf?, Head.op, Head.header, zeroFieldsB, hzero, hnch, hn]

/-- What a head read from a header says of it: the row and the port are those it was read for, its
names are legal, and the header is the one written from them, so no bit of it is ignored (R100). -/
structure Head.ReadFrom (hd : Head) (p : PortId) (op : Op) (h : Word) : Prop where
  op_eq : hd.op = op
  port_eq : hd.port = p
  legal : hd.legal = true
  header_eq : h = hd.header

section
variable {h : Word} {op : Op} {p : PortId} {hd : Head}

/-- The header of a command with a stage operand (R93, R99). -/
theorem header_of_stageOperand? (hcode : fieldOf h 31 24 = op.code) {st : Stage}
    (hst : stageOperand? h = some st) : h = headerS op st.pos.toNat st.sec.toNat 0 0 := by
  obtain ⟨hguard, hst⟩ := Option.ite_none_right_eq_some.mp hst
  obtain ⟨⟨hzero, hch⟩, hflag⟩ : (zeroFieldsS h = true ∧ chField h = 0) ∧ flagField h = 0 := by
    simpa using hguard
  obtain ⟨hpos, hsec⟩ := Stage.eq_toNat_of_ofNats? hst
  have hheader := eq_headerS hcode hzero
  rwa [hpos, hsec, hch, hflag] at hheader

/-- The header of a command with a channel operand alone (R93, R99). -/
theorem header_of_chanOperand? (hcode : fieldOf h 31 24 = op.code) {ch : Chan}
    (hch : chanOperand? h = some ch) : h = headerS op 0 0 ch.toNat 0 := by
  obtain ⟨hguard, hch⟩ := Option.ite_none_right_eq_some.mp hch
  obtain ⟨⟨⟨hzero, hpos⟩, hsec⟩, hflag⟩ :
      ((zeroFieldsS h = true ∧ posField h = 0) ∧ secField h = 0) ∧ flagField h = 0 := by
    simpa using hguard
  have hheader := eq_headerS hcode hzero
  rwa [hpos, hsec, hflag, Chan.eq_toNat_of_ofNat? hch] at hheader

/-- The header of a command with a register operand (R95, R99). -/
theorem header_of_csrOperand? (hcode : fieldOf h 31 24 = op.code) {r : Csr}
    (hr : csrOperand? h = some r) : h = headerC op r.addr := by
  obtain ⟨hzero, haddr⟩ := legal_of_csrOperand? hr
  exact haddr ▸ eq_headerC hcode hzero

theorem readFrom_setbyp (hcode : fieldOf h 31 24 = Op.setbyp.code) (hport : Op.setbyp.onPort p = true)
    (hhead : headOf? p .setbyp h = some hd) : hd.ReadFrom p .setbyp h := by
  obtain ⟨hguard, hnames⟩ := Option.ite_none_right_eq_some.mp hhead
  obtain ⟨⟨hzero, hsec⟩, hch⟩ : (zeroFieldsS h = true ∧ secField h = 0) ∧ chField h = 0 := by
    simpa using hguard
  split at hnames
  next pos flag hpos hflag =>
    cases hnames
    refine ⟨rfl, (beq_iff_eq.mp hport).symm, rfl, ?_⟩
    have hheader := eq_headerS hcode hzero
    rwa [hsec, hch, Pos.eq_toNat_of_ofNat? hpos, eq_toNat_of_flagOfNat? hflag] at hheader
  next => cases hnames

theorem readFrom_cutupd (hcode : fieldOf h 31 24 = Op.cutupd.code) (hport : Op.cutupd.onPort p = true)
    (hhead : headOf? p .cutupd h = some hd) : hd.ReadFrom p .cutupd h := by
  obtain ⟨hguard, hnames⟩ := Option.ite_none_right_eq_some.mp hhead
  obtain ⟨⟨hzero, hch⟩, hflag⟩ : (zeroFieldsS h = true ∧ chField h = 0) ∧ flagField h = 0 := by
    simpa using hguard
  split at hnames
  next cut slope hcut hslope =>
    cases hnames
    refine ⟨rfl, (beq_iff_eq.mp hport).symm, rfl, ?_⟩
    have hheader := eq_headerS hcode hzero
    rwa [hch, hflag, Cut.eq_toNat_of_ofNat? hcut, Sec.eq_toNat_of_ofNat? hslope] at hheader
  next => cases hnames

theorem readFrom_rddly (hcode : fieldOf h 31 24 = Op.rddly.code) (hport : Op.rddly.onPort p = true)
    (hhead : headOf? p .rddly h = some hd) : hd.ReadFrom p .rddly h := by
  obtain ⟨hguard, hnames⟩ := Option.ite_none_right_eq_some.mp hhead
  obtain ⟨hzero, hflag⟩ : zeroFieldsS h = true ∧ flagField h = 0 := by simpa using hguard
  split at hnames
  next st ch hst hch =>
    cases hnames
    refine ⟨rfl, (beq_iff_eq.mp hport).symm, rfl, ?_⟩
    obtain ⟨hpos, hsec⟩ := Stage.eq_toNat_of_ofNats? hst
    have hheader := eq_headerS hcode hzero
    rwa [hflag, hpos, hsec, Chan.eq_toNat_of_ofNat? hch] at hheader
  next => cases hnames

theorem readFrom_proc (hcode : fieldOf h 31 24 = Op.proc.code) (hport : Op.proc.onPort p = true)
    (hhead : headOf? p .proc h = some hd) : hd.ReadFrom p .proc h := by
  obtain ⟨hzero, hnames⟩ := Option.ite_none_right_eq_some.mp hhead
  obtain ⟨nch, hnch, rfl⟩ := Option.map_eq_some_iff.mp hnames
  refine ⟨rfl, (beq_iff_eq.mp hport).symm, rfl, ?_⟩
  have hn : (BitVec.ofNat 16 (fieldOf h 15 0)).toNat = fieldOf h 15 0 :=
    (BitVec.toNat_ofNat _ _).trans (Nat.mod_eq_of_lt (fieldOf_lt h 15 0))
  rw [Head.header, hn, ← ChanCount.eq_toNat_of_ofNat? hnch]
  exact eq_headerB hcode hzero

theorem readFrom_wrcsr (hcode : fieldOf h 31 24 = Op.wrcsr.code)
    (hhead : headOf? p .wrcsr h = some hd) : hd.ReadFrom p .wrcsr h := by
  cases hr : csrOperand? h with
  | none => simp [headOf?, hr] at hhead
  | some r =>
    simp only [headOf?, hr] at hhead
    obtain ⟨hwritable, hhead⟩ := Option.ite_none_right_eq_some.mp hhead
    cases hhead
    exact ⟨rfl, rfl, hwritable, header_of_csrOperand? hcode hr⟩

/-- The converse of `Head.headOf?_header`: what the decoder reads from a header is all it holds. -/
theorem readFrom_of_headOf? (hcode : fieldOf h 31 24 = op.code) (hport : op.onPort p = true)
    (hhead : headOf? p op h = some hd) : hd.ReadFrom p op h := by
  cases op
  case nop =>
    obtain ⟨hzero, hhead⟩ := Option.ite_none_right_eq_some.mp hhead
    cases hhead
    exact ⟨rfl, rfl, rfl, eq_headerZ hcode hzero⟩
  case prepare | magq | tick | tcdirty =>
    obtain ⟨hzero, hhead⟩ := Option.ite_none_right_eq_some.mp hhead
    cases hhead
    exact ⟨rfl, (beq_iff_eq.mp hport).symm, rfl, eq_headerZ hcode hzero⟩
  case setcoef | rdcoef =>
    obtain ⟨st, hst, rfl⟩ := Option.map_eq_some_iff.mp hhead
    exact ⟨rfl, (beq_iff_eq.mp hport).symm, rfl, header_of_stageOperand? hcode hst⟩
  case pull | fftrun | pathgen | rdframe | rdpath =>
    obtain ⟨ch, hch, rfl⟩ := Option.map_eq_some_iff.mp hhead
    exact ⟨rfl, (beq_iff_eq.mp hport).symm, rfl, header_of_chanOperand? hcode hch⟩
  case rdcsr =>
    obtain ⟨r, hr, rfl⟩ := Option.map_eq_some_iff.mp hhead
    exact ⟨rfl, rfl, rfl, header_of_csrOperand? hcode hr⟩
  case setbyp => exact readFrom_setbyp hcode hport hhead
  case cutupd => exact readFrom_cutupd hcode hport hhead
  case rddly => exact readFrom_rddly hcode hport hhead
  case proc => exact readFrom_proc hcode hport hhead
  case wrcsr => exact readFrom_wrcsr hcode hhead

end

end Sys2Proof
end

section
/-! SUPPORT. The payload of a command (30_encoding.md R97, R98), and which packets decode to it
(R100). -/

namespace Sys2Proof

@[simp] theorem Coef.length_words (k : Coef) : k.words.length = 5 := rfl

@[simp] theorem Coef.length_flatMap_words (sets : List Coef) :
    (sets.flatMap Coef.words).length = 5 * sets.length := by
  simp [List.length_flatMap, Nat.mul_comm]

/-- Coefficient sets are read back from their words (R98, R143). -/
@[simp] theorem Coef.listOfWords?_flatMap_words (sets : List Coef) :
    Coef.listOfWords? (sets.flatMap Coef.words) = some sets := by
  induction sets with
  | nil => rfl
  | cons k sets ih => rw [List.flatMap_cons, Coef.listOfWords?_words_append, ih, Option.map_some]

/-- Words that are read as coefficient sets are the words of those sets. -/
theorem Coef.eq_flatMap_words {ws : List Word} {sets : List Coef}
    (h : Coef.listOfWords? ws = some sets) : ws = sets.flatMap Coef.words := by
  induction ws using Coef.listOfWords?.induct generalizing sets with
  | case1 =>
    cases h
    rfl
  | case2 b0 b1 b2 a1 a2 ws ih =>
    obtain ⟨rest, hrest, rfl⟩ := Option.map_eq_some_iff.mp h
    rw [ih hrest]
    rfl
  | case3 ws hnil hcons =>
    rw [Coef.listOfWords?] at h
    · cases h
    · exact hnil
    · exact hcons

/-- The head of a command reads the command back from its payload (R98). -/
theorem Instr.withPayload?_payloadWords (i : Instr) :
    i.head.withPayload? i.payloadWords = some i := by
  cases i
  case cutupd cut slope sets =>
    exact congrArg (Option.map _) (Coef.listOfWords?_flatMap_words sets)
  all_goals rfl

/-- A payload a head reads is the payload of the command it reads, word for word (R98). -/
theorem Head.of_withPayload? {hd : Head} {ws : List Word} {i : Instr}
    (hlen : ws.length = hd.paylen) (h : hd.withPayload? ws = some i) :
    i.head = hd ∧ i.payloadWords = ws := by
  cases hd
  case prepare =>
    obtain ⟨sr, mb, rfl⟩ := List.length_eq_two.mp hlen
    cases h
    exact ⟨rfl, rfl⟩
  case magq | wrcsr =>
    obtain ⟨w, rfl⟩ := List.length_eq_one_iff.mp hlen
    cases h
    exact ⟨rfl, rfl⟩
  case setcoef st =>
    obtain ⟨k, rfl⟩ := Coef.exists_words hlen
    cases h
    exact ⟨rfl, rfl⟩
  case pathgen | tick =>
    obtain ⟨b, rfl⟩ := Bounds.exists_words hlen
    cases h
    exact ⟨rfl, rfl⟩
  case cutupd cut slope =>
    obtain ⟨sets, hsets, rfl⟩ := Option.map_eq_some_iff.mp h
    exact ⟨rfl, (Coef.eq_flatMap_words hsets).symm⟩
  case proc nch n =>
    cases h
    exact ⟨rfl, rfl⟩
  all_goals
    obtain rfl := List.length_eq_zero_iff.mp hlen
    cases h
    exact ⟨rfl, rfl⟩

/-- A command is well formed when its names are legal and its payload has the length its header
requires (R97, R99). -/
theorem Instr.wellFormed_iff (i : Instr) :
    i.wellFormed = true ↔ i.head.legal = true ∧ i.payloadWords.length = i.head.paylen := by
  cases i
  case cutupd cut slope sets =>
    simp [Instr.wellFormed, Instr.head, Head.legal, Instr.payloadWords, Head.paylen, Nat.mul_comm 5]
  case proc nch n payload =>
    simp [Instr.wellFormed, Instr.head, Head.legal, Instr.payloadWords, Head.paylen]
  case wrcsr p r w =>
    simp [Instr.wellFormed, Instr.head, Head.legal, Instr.payloadWords, Head.paylen]
  all_goals exact ⟨fun _ => ⟨rfl, rfl⟩, fun _ => rfl⟩

/-- What decoding a command went through: the opcode, the fields, the length (R100). -/
theorem decode_eq_ok_cases {p : PortId} {packet : List Word} {i : Instr}
    (h : decode p packet = .ok i) :
    ∃ header ws op hd, packet = header :: ws ∧ fieldOf header 31 24 = op.code ∧
      op.onPort p = true ∧ headOf? p op header = some hd ∧ ws.length = hd.paylen ∧
      hd.withPayload? ws = some i := by
  unfold decode at h
  split at h
  next => cases h
  next header ws =>
    split at h
    next => cases h
    next op hop =>
      split_ifs at h with hport
      split at h
      next => cases h
      next hd hhead =>
        split_ifs at h with hlen
        split at h <;> cases h
        next hpayload =>
          exact ⟨header, ws, op, hd, rfl, Op.eq_code_of_ofCode? hop, hport, hhead, hlen, hpayload⟩

/-- A packet decodes to a command exactly when it is the packet of that command, the command is well
formed and the port its own (R100 to R102). -/
theorem decode_eq_ok_iff {p : PortId} {packet : List Word} {i : Instr} :
    decode p packet = .ok i ↔ i.wellFormed = true ∧ i.port = p ∧ packet = encode i := by
  constructor
  · intro h
    obtain ⟨header, ws, op, hd, rfl, hcode, hport, hhead, hlen, hpayload⟩ := decode_eq_ok_cases h
    obtain ⟨_, hportEq, hlegal, hheader⟩ := readFrom_of_headOf? hcode hport hhead
    obtain ⟨rfl, rfl⟩ := Head.of_withPayload? hlen hpayload
    exact ⟨i.wellFormed_iff.mpr ⟨hlegal, hlen⟩, i.head_port.symm.trans hportEq,
      by rw [encode, ← i.head_header, hheader]⟩
  · rintro ⟨hwf, rfl, rfl⟩
    obtain ⟨hlegal, hlen⟩ := i.wellFormed_iff.mp hwf
    have hcode : fieldOf i.header 31 24 = i.head.op.code := i.head_header ▸ i.head.header_code
    have hhead : headOf? i.port i.head.op i.header = some i.head := by
      rw [← i.head_header, ← i.head_port]
      exact Head.headOf?_header hlegal
    have hport : i.head.op.onPort i.port = true := i.head_port ▸ i.head.op_onPort
    simp only [encode, decode, hcode, Op.ofCode?_code, hport, hhead, hlen,
      i.withPayload?_payloadWords, if_true]

end Sys2Proof
end

section
/-! The obligations about encoding and decoding a command (30_encoding.md R91 to R102). -/

open Sys2Proof Sys2Proof.Machine

/-- Settles O1: one direction of `decode_eq_ok_iff`. -/
theorem decodeInvertsEncode : Obligations.DecodeInvertsEncode :=
  fun _ hwf => decode_eq_ok_iff.mpr ⟨hwf, rfl, rfl⟩

/-- Settles O2: the other direction of `decode_eq_ok_iff`. -/
theorem decodeAcceptsOnlyEncodings : Obligations.DecodeAcceptsOnlyEncodings :=
  fun _ _ _ h => decode_eq_ok_iff.mp h

/-- Settles O3: each packet is the encoding of the command it is written for. -/
theorem assemblyExamplesDecode : Obligations.AssemblyExamplesDecode := by
  refine ⟨?_, ?_, ?_, ?_, ?_, ?_, ?_⟩ <;> exact decode_eq_ok_iff.mpr (by decide)

end

section
/-! SUPPORT. The invariant of the block (10_state.md R20, R32, R42, R44, R50 to R55) along each
operation the commands and micro-steps share. -/

namespace Sys2Proof.Machine

/-- The invariant does not look at the coefficients, the delay records, the position flags, ANEN,
DIRTY, the fault bits, the port streams and the agenda. -/
theorem State.Inv.of_unseen {s : State} (h : s.Inv) (coef : Bank Coef) (dly : Chans (Bank Delay))
    (pbyp : Poss Bool) (anen dirty : Bool) (fstat : Ports (BitVec 5)) (io : Ports PortIO)
    (sched : List Event) :
    ({ s with
      coef := coef, dly := dly, pbyp := pbyp, anen := anen, dirty := dirty, fstat := fstat
      io := io, sched := sched } : State).Inv :=
  ⟨h.config, h.slopes, h.session, h.queues, h.analyzer, h.floor⟩

/-- A fault keeps the invariant (R274). -/
theorem takeFault_inv (p : PortId) (k : FaultCode) {s : State} (h : s.Inv) :
    (takeFault p k s).Inv := h.of_unseen ..

/-- A response keeps the invariant (R10). -/
theorem respond_inv (p : PortId) (ws : List Word) {s : State} (h : s.Inv) :
    (respond p ws s).Inv := h.of_unseen ..

/-- While prepared the session is legal (R41, R42). -/
theorem State.Inv.legalSession {s : State} (h : s.Inv) (hprep : s.prepared = true) :
    legalSession s.cfg.n s.srate s.maxblk = true := by
  have hsession := h.session
  rwa [SessionLegal, if_pos hprep] at hsession

theorem sessionLegal_of_prepared {s : State} (hprep : s.prepared = true)
    (hlegal : legalSession s.cfg.n s.srate s.maxblk = true) : SessionLegal s := by
  rwa [SessionLegal, if_pos hprep]

/-- A session has blocks of at least one sample, which fit the rolling buffer (R42, R215). -/
theorem State.Inv.maxblk_bounds {s : State} (h : s.Inv) (hprep : s.prepared = true) :
    1 ≤ s.maxblk ∧ s.maxblk ≤ s.cfg.n := by
  obtain ⟨_, _, hlow, hhigh⟩ := legalSession_iff.mp (h.legalSession hprep)
  exact ⟨hlow, hhigh⟩

/-- A command in flight belongs to a session (R75, R240). -/
theorem State.Inv.prepared_of_inFlight {s : State} (h : s.Inv)
    (hrun : s.procRun ≠ none ∨ s.tickRun ≠ none) : s.prepared = true := by
  by_contra hprep
  have hsession := h.session
  rw [SessionLegal, if_neg hprep] at hsession
  obtain ⟨_, _, _, hproc, htick⟩ := hsession
  exact hrun.elim (· hproc) (· htick)

/-- While prepared the invariant does not look at the commands in flight either. -/
theorem State.Inv.of_inFlight {s : State} (h : s.Inv) (hprep : s.prepared = true)
    (procRun : Option ProcRun) (tickRun : Option TickRun) :
    ({ s with procRun := procRun, tickRun := tickRun } : State).Inv :=
  ⟨h.config, h.slopes, sessionLegal_of_prepared hprep (h.legalSession hprep), h.queues, h.analyzer,
    h.floor⟩

/-- A property of every channel, after one of them is written. -/
theorem Chans.forall_get_set {α : Type} {P : α → Prop} {x : Chans α} {c : Chan} {y : α}
    (hx : ∀ d, P (x.get d)) (hy : P y) (d : Chan) : P ((x.set c y).get d) := by
  by_cases hd : d = c
  · subst hd
    rwa [Chans.get_set_same]
  · rw [Chans.get_set_ne _ _ hd]
    exact hx d

/-- What QueuesBounded asks of the queue of one channel (R51). -/
def QueueFits (s : State) (q : List (List F32)) : Prop :=
  q.length ≤ s.cfg.qcap ∧ ∀ blk ∈ q, blk.length = s.maxblk

theorem QueueFits.tail {s : State} {blk : List F32} {rest : List (List F32)}
    (h : QueueFits s (blk :: rest)) : QueueFits s rest := by
  obtain ⟨hlen, hblk⟩ := h
  refine ⟨?_, fun b hb => hblk b (List.mem_cons_of_mem _ hb)⟩
  rw [List.length_cons] at hlen
  omega

theorem QueueFits.append {s : State} {q : List (List F32)} (h : QueueFits s q)
    (hroom : q.length < s.cfg.qcap) {blk : List F32} (hblk : blk.length = s.maxblk) :
    QueueFits s (q ++ [blk]) := by
  obtain ⟨hlen, hall⟩ := h
  refine ⟨by simpa using hroom, fun b hb => ?_⟩
  rcases List.mem_append.mp hb with hold | hnew
  · exact hall b hold
  · rwa [List.mem_singleton.mp hnew]

/-- A push keeps the accumulator shorter than a block and the queue within its capacity (R193,
R194). -/
theorem qPush_inv (c : Chan) (v : F32) {s : State} (h : s.Inv) (hprep : s.prepared = true) :
    (qPush c v s).Inv := by
  obtain ⟨hlow, _⟩ := h.maxblk_bounds hprep
  have hacc (d : Chan) : (s.acc.get d).length < s.maxblk := (h.queues d).1 hprep
  have hqueue (d : Chan) : QueueFits s (s.queue.get d) := (h.queues d).2
  have hlegal : SessionLegal (qPush c v s) :=
    sessionLegal_of_prepared hprep (h.legalSession hprep)
  suffices hqueues : QueuesBounded (qPush c v s) from
    ⟨h.config, h.slopes, hlegal, hqueues, h.analyzer, h.floor⟩
  intro d
  refine ⟨fun _ => ?acc, ?queue⟩
  case acc =>
    refine Chans.forall_get_set (P := fun a : List F32 => a.length < s.maxblk) hacc ?_ d
    have hc := hacc c
    by_cases hfull : (s.acc.get c ++ [v]).length = s.maxblk
    · rw [if_pos hfull]
      exact hlow
    · rw [if_neg hfull]
      rw [List.length_append, List.length_singleton] at hfull ⊢
      omega
  case queue =>
    refine Chans.forall_get_set (P := QueueFits s) hqueue ?_ d
    split
    next hroom => exact (hqueue c).append hroom.2 hroom.1
    next => exact hqueue c

/-- A filter step writes delay records only (R75). -/
theorem filterStep_inv (c : Chan) (x : F32) {s : State} (h : s.Inv) : (filterStep c x s).2.Inv :=
  h.of_unseen ..

/-- A block pulled from the queue is as long as the session's blocks, so the rolling buffer keeps its
length (R214, R215). -/
theorem pullStep_inv {c : Chan} {s t : State} (h : s.Inv) (hprep : s.prepared = true)
    (hpull : pullStep c s = some t) : t.Inv := by
  obtain ⟨_, hhigh⟩ := h.maxblk_bounds hprep
  obtain ⟨blk, rest, hq, rfl⟩ := pullStep_eq_some.mp hpull
  have hqueue (d : Chan) : QueueFits s (s.queue.get d) := (h.queues d).2
  have hpulled : QueueFits s (blk :: rest) := hq ▸ hqueue c
  have hroll (d : Chan) : (s.roll.get d).length = s.cfg.n := (h.analyzer d).1
  refine ⟨h.config, h.slopes, sessionLegal_of_prepared hprep (h.legalSession hprep),
    fun d => ⟨(h.queues d).1, ?queue⟩, fun d => ⟨?roll, (h.analyzer d).2⟩, h.floor⟩
  case queue =>
    exact Chans.forall_get_set (P := QueueFits s) hqueue hpulled.tail d
  case roll =>
    refine Chans.forall_get_set (P := fun r : List F32 => r.length = s.cfg.n) hroll ?_ d
    have hblk : blk.length = s.maxblk := hpulled.2 blk (List.mem_cons_self ..)
    have hc := hroll c
    rw [List.length_append, List.length_drop]
    omega

/-- A frame has N/2 decibel values (R224, R227). -/
@[simp] theorem spectrumDb_length (cfg : Config) (floor : F32) (u : List F32) :
    (spectrumDb cfg floor u).length = cfg.n / 2 := by
  simp [spectrumDb]

/-- What AnalyzerBounded asks of the frame queue of one channel (R53). -/
def FramesFit (s : State) (q : List (List F32)) : Prop :=
  q.length ≤ s.cfg.fcap ∧ ∀ frame ∈ q, frame.length = s.cfg.n / 2

theorem FramesFit.append {s : State} {q : List (List F32)} (h : FramesFit s q)
    (hroom : q.length < s.cfg.fcap) {frame : List F32} (hframe : frame.length = s.cfg.n / 2) :
    FramesFit s (q ++ [frame]) := by
  obtain ⟨hlen, hall⟩ := h
  refine ⟨by simpa using hroom, fun f hf => ?_⟩
  rcases List.mem_append.mp hf with hold | hnew
  · exact hall f hold
  · rwa [List.mem_singleton.mp hnew]

theorem State.Inv.framesFit {s : State} (h : s.Inv) (c : Chan) : FramesFit s (s.fq.get c) := by
  obtain ⟨_, hlen, hall, _⟩ := h.analyzer c
  exact ⟨hlen, hall⟩

/-- An FFT adds a frame only where there is room (R228). -/
theorem fftStep_inv (c : Chan) {s : State} (h : s.Inv) : (fftStep c s).Inv := by
  refine ⟨h.config, h.slopes, h.session, h.queues, fun d => ?_, h.floor⟩
  obtain ⟨hroll, _, _, hcur, hpath⟩ := h.analyzer d
  have hfq : FramesFit s ((fftStep c s).fq.get d) := by
    refine Chans.forall_get_set (P := FramesFit s) h.framesFit ?_ d
    split
    next hroom => exact (h.framesFit c).append (of_decide_eq_true hroom) (spectrumDb_length ..)
    next => exact h.framesFit c
  exact ⟨hroll, hfq.1, hfq.2, hcur, hpath⟩

/-- A path has at most one point for each value of its frame (R233). -/
theorem pathFrom_length_le (cfg : Config) (srate floor : F32) (b : Bounds) (k : Nat)
    (frame : List F32) : (pathFrom cfg srate floor b k frame).length ≤ frame.length := by
  induction frame generalizing k with
  | nil => exact Nat.le_refl 0
  | cons d ds ih =>
    have hrest := ih (k + 1)
    have hpoint := Option.length_toList_le (o := binPoint cfg srate floor b k d)
    rw [pathFrom, List.length_append, List.length_cons]
    omega

/-- What AnalyzerBounded asks of the current frame of one channel (R54). -/
def FrameFits (s : State) (o : Option (List F32)) : Prop :=
  ∀ frame, o = some frame → frame.length = s.cfg.n / 2

/-- A path step shows a frame of N/2 values and empties the queue (R234, R235). -/
theorem pathStep_inv (c : Chan) (b : Bounds) {s : State} (h : s.Inv) : (pathStep c b s).Inv := by
  cases hlast : (s.fq.get c).getLast? with
  | none => rwa [pathStep_of_empty (List.getLast?_eq_none_iff.mp hlast)]
  | some frame =>
    rw [pathStep_of_last hlast]
    have hframe : frame.length = s.cfg.n / 2 :=
      (h.framesFit c).2 frame (List.mem_of_getLast? hlast)
    refine ⟨h.config, h.slopes, h.session, h.queues, fun d => ?_, h.floor⟩
    have hcur (d : Chan) : FrameFits s (s.curframe.get d) := by
      obtain ⟨_, _, _, hcur, _⟩ := h.analyzer d
      exact hcur
    have hpath (d : Chan) : (s.curpath.get d).length ≤ s.cfg.n / 2 := by
      obtain ⟨_, _, _, _, hpath⟩ := h.analyzer d
      exact hpath
    have hfq : FramesFit s ((s.fq.set c []).get d) :=
      Chans.forall_get_set (P := FramesFit s) h.framesFit
        ⟨Nat.zero_le _, fun _ hmem => absurd hmem List.not_mem_nil⟩ d
    refine ⟨(h.analyzer d).1, hfq.1, hfq.2, ?shown, ?points⟩
    case shown =>
      refine Chans.forall_get_set (P := FrameFits s) hcur
        (fun f hf => ?_) d
      cases hf
      exact hframe
    case points =>
      refine Chans.forall_get_set (P := fun p : List Point => p.length ≤ s.cfg.n / 2) hpath ?_ d
      exact hframe ▸ pathFrom_length_le ..

theorem tickPulls_inv (c : Chan) (fuel : Nat) {s : State} (h : s.Inv) (hprep : s.prepared = true) :
    (tickPulls c fuel s).Inv := by
  induction fuel generalizing s with
  | zero => exact h
  | succ fuel ih =>
    unfold tickPulls
    split
    next => exact h
    next t hpull =>
      have ht : t.prepared = true := by
        rw [pullStep_frame hpull]
        exact hprep
      exact ih (fftStep_inv c (pullStep_inv h hprep hpull)) ht

/-- A channel of a TICK keeps the invariant (R240). -/
theorem tickChannel_inv (c : Chan) (b : Bounds) {s : State} (h : s.Inv) (hprep : s.prepared = true) :
    (tickChannel c b s).Inv := pathStep_inv c b (tickPulls_inv c _ h hprep)

theorem tickChannel_prepared (c : Chan) (b : Bounds) (s : State) :
    (tickChannel c b s).prepared = s.prepared := by
  rw [tickChannel_frame]

theorem procChannel_inv (c : Chan) (xs : List F32) {s : State} (h : s.Inv)
    (hprep : s.prepared = true) : (procChannel c xs s).2.Inv := by
  induction xs generalizing s with
  | nil => exact h
  | cons x xs ih => exact ih (qPush_inv c _ (filterStep_inv c x h) hprep) hprep

/-- The channels of a PROC keep the invariant (R160). -/
theorem procChannels_inv (n : Nat) (payload : List F32) (cs : List Chan) {s : State} (h : s.Inv)
    (hprep : s.prepared = true) : (procChannels n payload cs s).2.Inv := by
  induction cs generalizing s with
  | nil => exact h
  | cons c cs ih =>
    refine ih (procChannel_inv c _ h hprep) ?_
    rw [procChannel_frame]
    exact hprep

/-- A new session has the invariant (R252). -/
theorem startSession_inv {srate : F32} {maxblk : Nat} {s : State} (h : s.Inv)
    (hlegal : legalSession s.cfg.n srate maxblk = true) : (startSession srate maxblk s).Inv := by
  obtain ⟨_, _, hlow, _⟩ := legalSession_iff.mp hlegal
  refine ⟨h.config, h.slopes, sessionLegal_of_prepared rfl hlegal, fun d => ?queues,
    fun d => ?analyzer, h.floor⟩
  case queues =>
    have hqueue : (startSession srate maxblk s).queue.get d = [] := Chans.get_all [] d
    have hacc : (startSession srate maxblk s).acc.get d = [] := Chans.get_all [] d
    rw [hqueue, hacc]
    exact ⟨fun _ => hlow, Nat.zero_le _, nofun⟩
  case analyzer => cases d <;> simp [startSession, Chans.all, Chans.get]

/-- The state after reset has the invariant for legal parameters (R301). -/
theorem resetWith_inv {c : Config} (h : legalConfig c = true) : (State.resetWith c).Inv := by
  have hfloor : legalFloor c.floorReset = true := (Bool.and_eq_true_iff.mp h).2
  refine ⟨h, resetWith_slopesAgree c, ?session, fun d => ?queues, fun d => ?analyzer, hfloor⟩
  case session => exact ⟨rfl, rfl, rfl, rfl, rfl⟩
  case queues =>
    rw [resetWith_queue_get]
    exact ⟨nofun, Nat.zero_le _, nofun⟩
  case analyzer => simp [State.resetWith, Config.n]

end Sys2Proof.Machine
end

section
/-! SUPPORT. Every command, event and step keeps the invariant of the block. -/

namespace Sys2Proof.Machine

/-- What a command answers has the invariant when the state it is known to answer has it. -/
theorem inv_of_next {o : Out State} {t u : State} (he : o = .next u) (h : o = .next t)
    (hu : u.Inv) : t.Inv := by
  cases he.symm.trans h
  exact hu

theorem prepared_of_procCheck {n : Nat} {s : State} (h : procCheck n s = none) :
    s.prepared = true := by
  by_contra hprep
  rw [procCheck_of_not_prepared n (by simpa using hprep)] at h
  cases h

theorem prepared_of_boundsCheck {b : Bounds} {s : State} (h : boundsCheck b s = none) :
    s.prepared = true := by
  by_contra hprep
  rw [boundsCheck_of_not_prepared (by simpa using hprep)] at h
  cases h

/-- A CSR write keeps the invariant: FLOOR takes legal values only (R44, R258). -/
theorem execWrcsr_inv (p : PortId) (r : Csr) (w : Word) {s t : State} (hs : s.Inv)
    (h : execWrcsr p r w s = .next t) : t.Inv := by
  unfold execWrcsr at h
  rcases csrWrite_cases p r w s with
      ⟨_, hw⟩ | ⟨_, _, hw⟩ | ⟨_, _, hlegal, hw⟩ | ⟨_, _, _, hw⟩ | ⟨_, hw⟩ <;>
    rw [hw] at h <;> cases h
  · exact hs.of_unseen ..
  · exact hs.of_unseen ..
  · exact ⟨hs.config, hs.slopes, hs.session, hs.queues, hs.analyzer, hlegal⟩
  · exact takeFault_inv p _ hs
  · exact takeFault_inv p _ hs

theorem execCutupd_inv {c : Cut} {o : Sec} {sets : List Coef} {s t : State} (hs : s.Inv)
    (h : execCutupd c o sets s = .next t) : t.Inv := by
  have hslopes := cutupd_slopesAgree hs.slopes h
  by_cases hlen : sets.length = o.toNat + 1
  · cases (execCutupd_of_length hlen c s).symm.trans h
    exact ⟨hs.config, hslopes, hs.session, hs.queues, hs.analyzer, hs.floor⟩
  · cases (execCutupd_of_length_ne hlen c s).symm.trans h
    exact takeFault_inv .a .len hs

/-- Every command keeps the invariant. -/
theorem exec_inv (i : Instr) {s t : State} (hs : s.Inv) (h : exec i s = .next t) : t.Inv := by
  cases i
  case prepare sr mb =>
    rcases execPrepare_cases sr mb s with ⟨hlegal, he⟩ | ⟨_, he⟩
    · exact inv_of_next he h (startSession_inv hs hlegal)
    · exact inv_of_next he h (takeFault_inv .a _ hs)
  case cutupd c o sets => exact execCutupd_inv hs h
  case proc nch n payload =>
    rcases execProc_cases nch n payload s with ⟨_, he⟩ | ⟨k, _, _, he⟩ | ⟨_, hcheck, he⟩
    · exact inv_of_next he h (takeFault_inv .a _ hs)
    · exact inv_of_next he h (takeFault_inv .a _ hs)
    · have hprep := prepared_of_procCheck hcheck
      exact inv_of_next he h (respond_inv .a _ (procChannels_inv _ _ _ hs hprep))
  case magq f =>
    rcases execMagq_cases f s with ⟨_, he⟩ | ⟨_, _, he⟩ | ⟨_, _, he⟩
    · exact inv_of_next he h (takeFault_inv .a _ hs)
    · exact inv_of_next he h (takeFault_inv .a _ hs)
    · exact inv_of_next he h (respond_inv .a _ hs)
  case wrcsr p r w => exact execWrcsr_inv p r w hs h
  case pull c =>
    rcases execPull_cases c s with ⟨_, he⟩ | ⟨_, _, he⟩ | ⟨u, hprep, _, hpull, he⟩
    · exact inv_of_next he h (takeFault_inv .v _ hs)
    · exact inv_of_next he h (respond_inv .v _ hs)
    · exact inv_of_next he h (respond_inv .v _ (pullStep_inv hs hprep hpull))
  case fftrun c =>
    rcases execFftrun_cases c s with ⟨_, he⟩ | ⟨_, _, he⟩ | ⟨_, _, he⟩
    · exact inv_of_next he h (takeFault_inv .v _ hs)
    · exact inv_of_next he h (respond_inv .v _ hs)
    · exact inv_of_next he h (respond_inv .v _ (fftStep_inv c hs))
  case pathgen c b =>
    rcases execPathgen_cases c b s with ⟨k, _, he⟩ | ⟨_, _, he⟩ | ⟨_, _, he⟩
    · exact inv_of_next he h (takeFault_inv .v _ hs)
    · exact inv_of_next he h (respond_inv .v _ hs)
    · exact inv_of_next he h (respond_inv .v _ (pathStep_inv c b hs))
  case rdframe c =>
    obtain ⟨ws, he⟩ := execRdframe_eq c s
    exact inv_of_next he h (respond_inv .v _ hs)
  case tick b =>
    rcases execTick_cases b s with ⟨k, _, he⟩ | ⟨_, _, he⟩ | ⟨hcheck, _, he⟩
    · exact inv_of_next he h (takeFault_inv .v _ hs)
    · exact inv_of_next he h hs
    · have hprep := prepared_of_boundsCheck hcheck
      have hleft := tickChannel_inv .l b hs hprep
      exact inv_of_next he h
        (tickChannel_inv .r b hleft ((tickChannel_prepared .l b s).trans hprep))
  all_goals
    cases h
    exact hs.of_unseen ..

/-- So does every command run as its first micro-step only (R75). -/
theorem beginCommand_inv (i : Instr) {s t : State} (hs : s.Inv) (h : beginCommand i s = .next t) :
    t.Inv := by
  rcases beginCommand_cases i s with he | ⟨_, _, _, _, _, hcheck, he⟩ | ⟨_, _, hcheck, _, he⟩
  · exact exec_inv i hs (he.symm.trans h)
  · exact inv_of_next he h (hs.of_inFlight (prepared_of_procCheck hcheck) _ _)
  · exact inv_of_next he h (hs.of_inFlight (prepared_of_boundsCheck hcheck) _ _)

/-- Serving a port keeps the invariant when running a command does. -/
theorem serve_inv {run : Instr → State → Out State}
    (hrun : ∀ i {s t : State}, s.Inv → run i s = .next t → t.Inv) {p : PortId} {s t : State}
    (hs : s.Inv) (h : serve run p s = .next t) : t.Inv := by
  have hfetched {packet : List Word} {u : State} (hfetch : fetch p s = some (packet, u)) : u.Inv := by
    rw [fetch_frame hfetch]
    exact hs.of_unseen ..
  rcases serve_cases run p s with
    he | ⟨packet, u, i, _, hfetch, _, he⟩ | ⟨packet, u, k, _, hfetch, _, he⟩
  · exact inv_of_next he h hs
  · exact hrun i (hfetched hfetch) (he.symm.trans h)
  · exact inv_of_next he h (takeFault_inv p k (hfetched hfetch))

/-- A filter micro-step keeps the invariant (R75). -/
theorem filterMicro_inv (c : Chan) {s : State} (hs : s.Inv) : (filterMicro c s).Inv := by
  unfold filterMicro
  split
  next => exact hs
  next run hrun =>
    have hprep := hs.prepared_of_inFlight (.inl (by simp [hrun]))
    split
    next => exact hs
    next ln _ =>
      split
      next => exact hs
      next x xs _ => exact (filterStep_inv c x hs).of_inFlight hprep _ _

/-- A push micro-step keeps the invariant (R75). -/
theorem pushMicro_inv (c : Chan) {s : State} (hs : s.Inv) : (pushMicro c s).Inv := by
  unfold pushMicro
  split
  next => exact hs
  next run hrun =>
    have hprep := hs.prepared_of_inFlight (.inl (by simp [hrun]))
    split
    next => exact hs
    next ln _ =>
      split
      next => exact hs
      next y ys _ => exact (qPush_inv c y hs hprep).of_inFlight hprep _ _

/-- The response micro-step keeps the invariant (R75). -/
theorem respondMicro_inv {s : State} (hs : s.Inv) : (respondMicro s).Inv := by
  unfold respondMicro
  split
  next => exact hs
  next run hrun =>
    have hprep := hs.prepared_of_inFlight (.inl (by simp [hrun]))
    split
    next => exact respond_inv .a _ (hs.of_inFlight hprep _ _)
    next => exact hs

/-- A micro-step of TICK keeps the invariant (R240). -/
theorem tickMicro_inv {s : State} (hs : s.Inv) : (tickMicro s).Inv := by
  unfold tickMicro
  split
  next => exact hs
  next run hrun =>
    have hprep := hs.prepared_of_inFlight (.inr (by simp [hrun]))
    split
    next =>
      split
      next => exact hs.of_inFlight hprep _ _
      next t hpull =>
        have ht : t.prepared = true := by
          rw [pullStep_frame hpull]
          exact hprep
        exact (pullStep_inv hs hprep hpull).of_inFlight ht _ _
    next => exact (fftStep_inv run.ch hs).of_inFlight hprep _ _
    next =>
      have hpath : (pathStep run.ch run.bounds s).prepared = true := by
        rw [pathStep_frame]
        exact hprep
      exact (pathStep_inv run.ch run.bounds hs).of_inFlight hpath _ _

/-- Every event keeps the invariant. -/
theorem runEvent_inv (e : Event) {s t : State} (hs : s.Inv) (h : runEvent e s = .next t) : t.Inv := by
  cases e
  case command p => exact serve_inv exec_inv hs h
  case start p => exact serve_inv beginCommand_inv hs h
  all_goals cases h
  case filter c => exact filterMicro_inv c hs
  case push c => exact pushMicro_inv c hs
  case respond => exact respondMicro_inv hs
  case tick => exact tickMicro_inv hs
  case accept p =>
    rw [acceptWord_frame]
    exact hs.of_unseen ..
  case take p => exact hs.of_unseen ..
  case paramChanged => exact hs.of_unseen ..
  case reset => exact (resetWith_inv hs.config).of_unseen ..

/-- Every step keeps the invariant. -/
theorem step_inv {s t : State} (hs : s.Inv) (h : step s = .next t) : t.Inv := by
  rcases step_cases h with ⟨_, rfl⟩ | ⟨e, es, _, hrun⟩
  · exact hs
  · have hsched : ({ s with sched := es } : State).Inv := hs.of_unseen ..
    exact runEvent_inv e hsched hrun

/-- The default parameters are legal (R7). -/
theorem legalConfig_default : legalConfig Config.default = true := by
  have hwin : (Config.default.win.values Config.default.n).length = Config.default.n := by
    simp [Config.default, Window.values]
  have hfloor : legalFloor Config.default.floorReset = true := by decide
  rw [legalConfig, hwin, hfloor]
  decide

end Sys2Proof.Machine
end

section
/-! The obligations about the invariant of the block and the reset event (10_state.md;
70_reset_and_hazards.md, section 1). -/

open Sys2Proof Sys2Proof.Machine

/-- Settles O11: each event keeps the invariant (`runEvent_inv`), by the operations it is made of. -/
theorem stepKeepsInvariant : Obligations.StepKeepsInvariant := fun _ _ => step_inv

/-- Settles O12: the default parameters are legal, and legal parameters are all reset needs. -/
theorem resetHasInvariant : Obligations.ResetHasInvariant :=
  ⟨resetWith_inv legalConfig_default, fun _ => resetWith_inv⟩

/-- Settles O15: the step is the event the agenda names, which is `resetEvent`. -/
theorem resetEventAbandonsAll : Obligations.ResetEventAbandonsAll := by
  intro s es h
  have hnext : nextEvent s = some (.reset, es) := by rw [nextEvent, h]
  exact step_of_nextEvent hnext

end

section
/-! SUPPORT. The step that runs a complete packet (20_memory.md R73 to R75; 30_encoding.md R100), and
the steps in which a port's event finds nothing to do. -/

namespace Sys2Proof.Machine

variable {s : State} {p : PortId} {ws : List Word} {rest : List CmdBeat}

/-- Serving or starting a complete packet that decodes runs its command (R73, R100). -/
theorem serve_of_decode_ok (run : Instr → State → Out State) {i : Instr} (hidle : busy p s = false)
    (hne : ws ≠ []) (hcmd : (s.io.get p).cmd = packetBeats ws ++ rest)
    (hok : decode p ((s.io.get p).rx ++ ws) = .ok i) :
    serve run p s = run i { s with io := s.io.set p ⟨rest, [], (s.io.get p).rsp⟩ } := by
  simp only [serve, hidle, fetch_of_packetBeats hne hcmd, hok, Bool.false_eq_true, if_false]

/-- An agenda names the next event (R74). -/
theorem step_of_sched {e : Event} {es : List Event} (h : s.sched = e :: es) :
    step s = runEvent e { s with sched := es } := step_of_nextEvent (by rw [nextEvent, h])

/-- A stream on which no word is the last of its packet holds no complete packet (R61). -/
theorem takePacket_eq_none {bs : List CmdBeat} (h : ∀ b ∈ bs, b.last = false) :
    takePacket bs = none := by
  induction bs with
  | nil => rfl
  | cons b bs ih =>
    have hrest := ih fun x hx => h x (List.mem_cons_of_mem _ hx)
    simp [takePacket, h b (List.mem_cons_self ..), hrest]

/-- Serving a port does nothing while its command is in flight or no packet is complete (R73). -/
theorem serve_of_nothing (run : Instr → State → Out State)
    (h : busy p s = true ∨ ∀ b ∈ (s.io.get p).cmd, b.last = false) :
    serve run p s = .next s := by
  unfold serve
  split
  next => rfl
  next hidle =>
    have hpacket := takePacket_eq_none (h.resolve_left hidle)
    simp only [fetch, hpacket, Option.map_none]

/-- A word that is not the last of its packet is accepted while the port is idle (R60). -/
theorem acceptWord_of_word {w : Word} (hidle : busy p s = false)
    (hcmd : (s.io.get p).cmd = ⟨w, false⟩ :: rest) :
    acceptWord p s =
      { s with io := s.io.set p ⟨rest, (s.io.get p).rx ++ [w], (s.io.get p).rsp⟩ } := by
  simp only [acceptWord, hidle, hcmd, Bool.false_eq_true, if_false]

/-- No word is accepted while the port is busy, from an empty stream, or where the packet ends (R60). -/
theorem acceptWord_of_nothing (h : busy p s = true ∨ (s.io.get p).cmd = [] ∨
    ∃ w rest, (s.io.get p).cmd = ⟨w, true⟩ :: rest) : acceptWord p s = s := by
  unfold acceptWord
  rcases h with hbusy | hempty | ⟨w, rest, hlast⟩
  · rw [if_pos hbusy]
  · simp [hempty]
  · simp [hlast]

/-- The next packet the block serves by default, with nothing in flight: port A's before port V's
(log 8). -/
theorem nextEvent_of_packet (hsched : s.sched = []) (hproc : s.procRun = none)
    (htick : s.tickRun = none) (hne : ws ≠ []) (hcmd : (s.io.get p).cmd = packetBeats ws ++ rest)
    (hfirst : p = .a ∨ takePacket (s.io.get .a).cmd = none) :
    nextEvent s = some (.command p, []) := by
  have hready : packetReady p s = true := by
    rw [packetReady, hcmd, takePacket_packetBeats ws rest hne]
    rfl
  simp only [nextEvent, hsched, defaultEvent, hproc, htick]
  cases p with
  | a => simp [hready]
  | v =>
    have hnone : packetReady .a s = false := by
      rw [packetReady, hfirst.resolve_left nofun]
      rfl
    simp [hready, hnone]

/-- A command that is no PROC or TICK passing its checks is one micro-step, its whole meaning
(R75). -/
theorem beginCommand_eq_exec {i : Instr} (hproc : ∀ nch n payload, i = .proc nch n payload →
      s.prepared = false ∨ s.maxblk < n.toNat ∨ payload.length ≠ n.toNat * nch.toNat)
    (htick : ∀ b, i = .tick b →
      s.prepared = false ∨ someBoundNotFinite b = true ∨ s.anen = false) :
    beginCommand i s = exec i s := by
  rcases beginCommand_cases i s with he | ⟨nch, n, payload, hi, hlen, hcheck, _⟩ |
    ⟨b, hi, hcheck, hanen, _⟩
  · exact he
  · have hprep := prepared_of_procCheck hcheck
    rcases hproc nch n payload hi with hnot | hlarge | hne
    · cases hprep.symm.trans hnot
    · cases (procCheck_of_maxblk_lt hprep hlarge).symm.trans hcheck
    · exact absurd hlen hne
  · have hprep := prepared_of_boundsCheck hcheck
    rcases htick b hi with hnot | hbounds | hoff
    · cases hprep.symm.trans hnot
    · cases (boundsCheck_of_not_finite hprep hbounds).symm.trans hcheck
    · cases hanen.symm.trans hoff

/-- Every command answers a next state (70_reset_and_hazards.md R322). -/
theorem exec_next (i : Instr) (s : State) : ∃ t, exec i s = .next t := by
  by_cases hi : i = .tcdirty
  · subst hi
    exact ⟨_, exec_tcdirty s⟩
  · obtain ⟨t, ht, _⟩ := exec_dirty hi s
    exact ⟨t, ht⟩

theorem beginCommand_next (i : Instr) (s : State) : ∃ t, beginCommand i s = .next t := by
  rcases beginCommand_cases i s with he | ⟨_, _, _, _, _, _, he⟩ | ⟨_, _, _, _, he⟩
  · exact he ▸ exec_next i s
  · exact ⟨_, he⟩
  · exact ⟨_, he⟩

theorem serve_next {run : Instr → State → Out State} (hrun : ∀ i s, ∃ t, run i s = .next t)
    (p : PortId) (s : State) : ∃ t, serve run p s = .next t := by
  rcases serve_cases run p s with he | ⟨_, u, i, _, _, _, he⟩ | ⟨_, _, _, _, _, _, he⟩
  · exact ⟨_, he⟩
  · exact he ▸ hrun i u
  · exact ⟨_, he⟩

/-- Every event answers a next state (R322). -/
theorem runEvent_next (e : Event) (s : State) : ∃ t, runEvent e s = .next t := by
  cases e
  case command p => exact serve_next exec_next p s
  case start p => exact serve_next beginCommand_next p s
  all_goals exact ⟨_, rfl⟩

/-- The block never halts (R322). -/
theorem step_next (s : State) : ∃ t, step s = .next t := by
  cases hev : nextEvent s with
  | none => exact ⟨s, step_of_nextEvent_none hev⟩
  | some ev => exact step_of_nextEvent hev ▸ runEvent_next ev.1 _

/-- The step after a packet is placed runs the command it decodes to, with nothing of its port in
flight or half received (log 10). -/
theorem step_withPacket {i : Instr} (hne : ws ≠ []) (hok : decode p ws = .ok i) (s : State) :
    step (withPacket p ws s) =
      exec i { s with
        io := s.io.set p { s.io.get p with rx := [] }
        procRun := if p = .a then none else s.procRun
        tickRun := if p = .v then none else s.tickRun } := by
  rw [step_of_sched (s := withPacket p ws s) (e := .command p) (es := s.sched) rfl]
  cases p <;>
    exact serve_of_decode_ok (rest := (s.io.get _).cmd) exec rfl hne rfl hok

end Sys2Proof.Machine
end

section
/-! The obligations about a step (20_memory.md R73 to R75; 60_exceptions.md R274;
70_reset_and_hazards.md R322). -/

open Sys2Proof Sys2Proof.Machine

/-- Settles O7: at `command` and `start` the port is served (`serve_of_decode_ok`), by the agenda or
by default (`nextEvent_of_packet`); the other clauses are the lemma of each event. -/
theorem stepRunsDecodedCommand : Obligations.StepRunsDecodedCommand := by
  refine ⟨fun s p ws rest i hne hcmd hok => ⟨fun es hes hidle => ?command, fun es hes hidle => ?start,
    fun hsched hproc htick hfirst => ?byDefault⟩, fun i s => beginCommand_eq_exec,
    fun s p es hes hnothing => ?nothing, fun s p es hes => ⟨fun w rest hidle hcmd => ?word,
    fun hnothing => ?noWord⟩, fun s p es hes => ?take⟩
  case command =>
    exact (step_of_sched hes).trans
      (serve_of_decode_ok (s := { s with sched := es }) exec hidle hne hcmd hok)
  case start =>
    exact (step_of_sched hes).trans
      (serve_of_decode_ok (s := { s with sched := es }) beginCommand hidle hne hcmd hok)
  case byDefault =>
    have hidle : busy p s = false := by cases p <;> simp [busy, hproc, htick]
    rw [step_of_nextEvent (nextEvent_of_packet hsched hproc htick hne hcmd hfirst), ← hsched]
    exact serve_of_decode_ok exec hidle hne hcmd hok
  case nothing =>
    rcases hes with hes | hes <;>
      exact (step_of_sched hes).trans (serve_of_nothing (s := { s with sched := es }) _ hnothing)
  case word =>
    exact (step_of_sched hes).trans
      (congrArg _ (acceptWord_of_word (s := { s with sched := es }) hidle hcmd))
  case noWord =>
    exact (step_of_sched hes).trans
      (congrArg _ (acceptWord_of_nothing (s := { s with sched := es }) hnothing))
  case take =>
    rw [step_of_sched hes, List.drop_one]
    rfl

/-- Settles O8: `step_of_decode_bad`. -/
theorem stepTakesDecodeFault : Obligations.StepTakesDecodeFault :=
  fun _ _ _ _ _ _ => step_of_decode_bad

/-- Settles O9: the bits are placed as a packet of their table port, and the instruction read from
them belongs to that port (`decode_eq_ok_iff`). -/
theorem fetchWordRunsDecodedInstruction : Obligations.FetchWordRunsDecodedInstruction := by
  intro s nbits w i h
  have hok : decode (tablePort ((tablePacket nbits w).headD 0)) (tablePacket nbits w) = .ok i := by
    simp only [decodeTableWord] at h
    split at h <;> cases h
    assumption
  obtain ⟨_, hport, _⟩ := decode_eq_ok_iff.mp hok
  rw [hport]
  exact step_withPacket (List.cons_ne_nil _ _) hok s

/-- Settles O10: the block waits or runs an event, and every event answers a state. -/
theorem stepNeverStops : Obligations.StepNeverStops := step_next

/-- Settles O16: the bits are `faultSet_getLsbD`, and the rest is what `takeFault` writes. -/
theorem faultEntryEffect : Obligations.FaultEntryEffect := by
  refine fun p k s => ⟨fun j hj => ?bits, ?frame⟩
  case bits => rw [takeFault_fstat, Ports.get_set_same, faultSet_getLsbD k _ hj]
  case frame =>
    rw [takeFault_fstat, Ports.get_set_same]
    rfl

end

section
/-! The obligations about NOP, PREPARE and WRCSR (46_system.md; 10_state.md, section 5). -/

open Sys2Proof Sys2Proof.Machine

/-- Settles O20: the meaning of NOP is the state it was given. -/
theorem nopChangesNothing : Obligations.NopChangesNothing := fun _ _ => rfl

/-- Settles O22: the first PREPARE is `startSession`, which keeps the parameters and gives the second
the session it is in already. -/
theorem prepareTwiceSameAsOnce : Obligations.PrepareTwiceSameAsOnce := by
  intro s t sr mb hlegal h
  cases (exec_prepare_of_legalSession hlegal).symm.trans h
  exact exec_prepare_of_legalSession (s := startSession sr mb.toNat s) hlegal

/-- Settles O27: a legal FLOOR passes the check of its register; the registers a port may only read
are those of `Csr.writable_eq_false_iff`. -/
theorem wrcsrRights : Obligations.WrcsrRights := by
  refine ⟨fun w s hfinite hnegative => ?floor, fun p r w s hfclr hv => ?readOnly⟩
  case floor =>
    have hlegal : legalFloor w = true := Bool.and_eq_true_iff.mpr ⟨hfinite, hnegative⟩
    simp [exec, execWrcsr, csrWrite, hlegal]
  case readOnly =>
    exact exec_wrcsr_of_readOnly ((Csr.writable_eq_false_iff p r).mpr ⟨hfclr, hv⟩) w s

end

section
/-! SUPPORT. Chains and banks of stages (10_state.md R21): reading a bank after one of its chains is
replaced, and what loading a chain puts in each of its sections (41_cut_chain.md R143). -/

namespace Sys2Proof.Machine

variable {α : Type}

theorem Bank.get_setChain_same (x : Bank α) (c : Cut) (y : Secs α) (k : Sec) :
    (x.setChain c y).get (.cut c k) = y.get k := by
  cases c <;> rfl

theorem Bank.get_setChain_ne (x : Bank α) {c : Cut} (y : Secs α) {st : Stage}
    (h : st.pos ≠ .cut c) : (x.setChain c y).get st = x.get st := by
  cases st with
  | cut d k =>
    have hd : d ≠ c := fun heq => h (congrArg Pos.cut heq)
    cases c <;> cases d
    case lc.lc | hc.hc => exact absurd rfl hd
    all_goals rfl
  | peak k => cases c <;> cases k <;> rfl

theorem Bank.get_cut (x : Bank α) (c : Cut) (k : Sec) : x.get (.cut c k) = (x.chain c).get k := by
  cases c <;> rfl

/-- Section k takes set k of the list where there is one, and keeps its own past the end (R143). -/
theorem loadSections_get (old : Secs Coef) (sets : List Coef) (k : Sec) :
    (loadSections old sets).get k = sets.getD k.toNat (old.get k) := by
  cases k <;> rfl

end Sys2Proof.Machine
end

section
/-! The obligations about the filter commands (40_filter_stage.md, section 3; 41_cut_chain.md,
section 2). -/

open Sys2Proof Sys2Proof.Machine

/-- Settles O29: SETCOEF is one write to the bank of coefficients. -/
theorem setcoefLoadsOneStage : Obligations.SetcoefLoadsOneStage :=
  fun st k s => ⟨{ s with coef := s.coef.set st k }, rfl, rfl, Bank.get_set_same _ _ _,
    fun _ hne => Bank.get_set_ne _ _ hne⟩

/-- Settles O30: SETBYP is one write to the position flags. -/
theorem setbypSetsOneFlag : Obligations.SetbypSetsOneFlag :=
  fun p flag s => ⟨{ s with pbyp := s.pbyp.set p flag }, rfl, rfl, Poss.get_set_same _ _ _,
    fun _ hne => Poss.get_set_ne _ _ hne⟩

/-- Settles O31: the words are those of the record read. -/
theorem filterReadback : Obligations.FilterReadback := fun _ _ _ => ⟨rfl, rfl⟩

/-- Settles O32: section k of the chain has set k of the list or its own coefficients
(`loadSections_get`), and its flag is 1 exactly above the slope order. -/
theorem cutupdLoadsChain : Obligations.CutupdLoadsChain := by
  intro c o sets s hlen
  refine ⟨_, execCutupd_of_length hlen c s, rfl, fun k hk => ⟨?loaded, ?active⟩,
    fun k hk => ⟨?kept, ?bypassed⟩, Cuts.get_set_same _ _ _,
    fun st hst => Bank.get_setChain_ne _ _ hst,
    fun d hd => ⟨Cuts.get_set_ne _ _ hd, Cuts.get_set_ne _ _ hd⟩⟩
  case loaded =>
    have hin : k.toNat < sets.length := by omega
    rw [Bank.get_setChain_same, loadSections_get, List.getD_eq_getElem _ _ hin,
      List.getElem?_eq_getElem hin]
  case active =>
    rw [Cuts.get_set_same, slopeBypass_get, bypassedAt]
    exact decide_eq_false (Nat.not_lt.mpr hk)
  case kept =>
    have hout : sets.length ≤ k.toNat := by omega
    rw [Bank.get_setChain_same, loadSections_get, List.getD_eq_default _ _ hout, Bank.get_cut]
  case bypassed =>
    rw [Cuts.get_set_same, slopeBypass_get, bypassedAt]
    exact decide_eq_true hk

end

section
/-! SUPPORT. A NaN in a biquad (40_filter_stage.md R123): it reaches the output through the products
and sums, and the output stays in the record. -/

namespace Sys2Proof.Machine

/-- A delay record with a NaN in it. -/
def Delay.HasNaN (d : Delay) : Prop :=
  d.x1.isNaN = true ∨ d.x2.isNaN = true ∨ d.y1.isNaN = true ∨ d.y2.isNaN = true

/-- A NaN in the record makes the output a NaN, whatever the coefficients and the sample are. -/
theorem biquadStep_output_isNaN (j : Nat) (k : Coef) {d : Delay} (x : F32) (h : d.HasNaN) :
    (biquadStep (NumChoice.binary32 j).record k d x).1.isNaN = true := by
  rw [biquadStep_output]
  rcases h with hx1 | hx2 | hy1 | hy2
  · exact fsub_isNaN_of_nan j (.inl (fsub_isNaN_of_nan j (.inl (fadd_isNaN_of_nan j (.inl
      (fadd_isNaN_of_nan j (.inr (fmul_isNaN_of_nan j (.inr hx1)))))))))
  · exact fsub_isNaN_of_nan j (.inl (fsub_isNaN_of_nan j (.inl (fadd_isNaN_of_nan j (.inr
      (fmul_isNaN_of_nan j (.inr hx2)))))))
  · exact fsub_isNaN_of_nan j (.inl (fsub_isNaN_of_nan j (.inr (fmul_isNaN_of_nan j (.inr hy1)))))
  · exact fsub_isNaN_of_nan j (.inr (fmul_isNaN_of_nan j (.inr hy2)))

/-- The NaN of the output is in the next record, as its y1. -/
theorem biquadStep_delay_hasNaN (j : Nat) (k : Coef) {d : Delay} (x : F32) (h : d.HasNaN) :
    (biquadStep (NumChoice.binary32 j).record k d x).2.HasNaN :=
  .inr (.inr (.inl (biquadStep_output_isNaN j k x h)))

theorem stageOutputs_length (nm : NumRecord) (d : Delay) (samples : List (Coef × F32)) :
    (stageOutputs nm d samples).length = samples.length := by
  induction samples generalizing d with
  | nil => rfl
  | cons kx rest ih => simp [stageOutputs, ih]

/-- From a record with a NaN every output is a NaN (R123). -/
theorem stageOutputs_isNaN (j : Nat) {d : Delay} (h : d.HasNaN) (samples : List (Coef × F32)) :
    ∀ y ∈ stageOutputs (NumChoice.binary32 j).record d samples, y.isNaN = true := by
  induction samples generalizing d with
  | nil => nofun
  | cons kx rest ih =>
    intro y hy
    rcases List.mem_cons.mp hy with rfl | hrest
    · exact biquadStep_output_isNaN j kx.1 kx.2 h
    · exact ih (biquadStep_delay_hasNaN j kx.1 kx.2 h) y hrest

end Sys2Proof.Machine
end

section
/-! The obligation about NaNs in a stage (40_filter_stage.md R123). -/

open Sys2Proof Sys2Proof.Machine

/-- Settles O35: by induction on the samples, the NaN passing from record to output to record. -/
theorem naNSticksInStage : Obligations.NaNSticksInStage :=
  fun j d samples h => ⟨stageOutputs_length _ d samples, stageOutputs_isNaN j h samples⟩

end

section
/-! SUPPORT. The magnitude of the chain (42_mono_chain.md R170): the product over the enabled stages
is one over the positions in order, each over its sections in order. -/

namespace Sys2Proof.Machine

/-- The stages in chain order are the stages of the positions in order (R21, R170). -/
theorem Stage.order_eq_flatMap : Stage.order = Pos.order.flatMap stagesOf := rfl

theorem pos_of_mem_stagesOf {p : Pos} {st : Stage} (h : st ∈ stagesOf p) : st.pos = p := by
  cases p with
  | cut c =>
    simp only [stagesOf, List.mem_cons, List.not_mem_nil, or_false] at h
    rcases h with rfl | rfl | rfl | rfl <;> rfl
  | peak k => rw [List.mem_singleton.mp h]; rfl

variable (nm : NumRecord) (g : Settings) (f srate : F32)

/-- The magnitude up to a stage times that of the stage, where it is enabled. -/
def magThrough (m : F32) (st : Stage) : F32 := nm.fmul m (nm.stageMag (g.coef.get st) f srate)

/-- The magnitude through a position: its sections that are not bypassed, in order. -/
theorem foldl_enabled_stagesOf (p : Pos) (m : F32) :
    ((stagesOf p).filter (stageEnabled g)).foldl (magThrough nm g f srate) m =
      if g.pbyp.get p then m
      else (stagesOf p).foldl
        (fun m st => if stageBypass g st then m else magThrough nm g f srate m st) m := by
  have henabled : ∀ st ∈ stagesOf p, stageEnabled g st = (!g.pbyp.get p && !stageBypass g st) :=
    fun st hst => by rw [stageEnabled, pos_of_mem_stagesOf hst]
  rw [List.filter_congr henabled]
  cases g.pbyp.get p with
  | true => simp
  | false =>
    simp only [Bool.not_false, Bool.true_and, List.foldl_filter, Bool.not_eq_true',
      ← Bool.not_eq_true, ite_not, Bool.false_eq_true, if_false]

/-- The chain's magnitude position by position (R170). -/
theorem chainMag_eq :
    chainMag nm g f srate =
      Pos.order.foldl (fun m p =>
        if g.pbyp.get p then m
        else (stagesOf p).foldl
          (fun m st => if stageBypass g st then m else magThrough nm g f srate m st) m) F32.one := by
  simp only [← foldl_enabled_stagesOf]
  rw [← List.foldl_flatMap, ← List.filter_flatMap, ← Stage.order_eq_flatMap]
  rfl

end Sys2Proof.Machine
end

section
/-! The obligation about MAGQ (42_mono_chain.md R170). -/

open Sys2Proof Sys2Proof.Machine

/-- Settles O43: a legal frequency is answered with the chain's magnitude, which is the product in
position then section order (`chainMag_eq`); no position, no factor. -/
theorem magqRespondsProduct : Obligations.MagqRespondsProduct := by
  intro f s hprep hfinite hlow hhigh m
  have hlegal : legalFreq s.num f s.srate = true := by simp [legalFreq, hfinite, hlow, hhigh]
  have hm : chainMag s.num s.settings f s.srate = m := chainMag_eq s.num s.settings f s.srate
  refine ⟨?response, fun hall => ?allBypassed⟩
  case response =>
    rcases execMagq_cases f s with ⟨hnot, _⟩ | ⟨_, hillegal, _⟩ | ⟨_, _, he⟩
    · cases hprep.symm.trans hnot
    · cases hlegal.symm.trans hillegal
    · rw [hm] at he
      exact he
  case allBypassed => exact List.foldl_fixed' (fun p => if_pos (hall p)) Pos.order

end

section
/-! SUPPORT. The analyzer's commands on a prepared block with the analyzer enabled (45_analyzer.md
R213, R228, R234): one equation for each branch. -/

namespace Sys2Proof.Machine

/-- A response of the block is a packet more on the port's response stream (R10). -/
theorem respond_eq (p : PortId) (ws : List Word) (s : State) :
    respond p ws s = s.withResponse p (rspPacket false ws) := rfl

variable {c : Chan} {b : Bounds} {s : State}

section
variable (hprep : s.prepared = true) (hanen : s.anen = true)
include hprep hanen

/-- PULL from an empty queue responds 0 (R213). -/
theorem exec_pull_of_empty (h : s.queue.get c = []) :
    exec (.pull c) s = .next (s.withResponse .v [⟨0#32, true, false⟩]) := by
  simp only [exec, execPull, hprep, hanen, pullStep_eq_none.mpr h, Bool.true_eq_false, if_false]
  rfl

/-- PULL takes the oldest block into the rolling buffer and responds 1 (R213, R214). -/
theorem exec_pull_of_cons {blk : List F32} {rest : List (List F32)}
    (h : s.queue.get c = blk :: rest) :
    exec (.pull c) s = .next { s.withResponse .v [⟨1#32, true, false⟩] with
      queue := s.queue.set c rest
      roll := s.roll.set c ((s.roll.get c).drop blk.length ++ blk) } := by
  have hpull := pullStep_eq_some.mpr ⟨blk, rest, h, rfl⟩
  rcases execPull_cases c s with ⟨hnot, _⟩ | ⟨_, hoff | hnone, _⟩ | ⟨t, _, _, ht, he⟩
  · cases hprep.symm.trans hnot
  · cases hanen.symm.trans hoff
  · cases hpull.symm.trans hnone
  · cases hpull.symm.trans ht
    exact he

/-- FFTRUN runs one FFT and responds whether its frame was kept (R228). -/
theorem exec_fftrun_of_enabled :
    exec (.fftrun c) s =
      .next (respond .v [countWord (frameRoom c s).toNat] (fftStep c s)) := by
  simp only [exec, execFftrun, hprep, hanen, Bool.true_eq_false, if_false]

/-- PATHGEN with finite bounds shows the newest frame and responds how many were pending (R234). -/
theorem exec_pathgen_of_enabled (hb : someBoundNotFinite b = false) :
    exec (.pathgen c b) s =
      .next (respond .v [countWord (s.fq.get c).length] (pathStep c b s)) := by
  simp only [exec, execPathgen, boundsCheck_eq_none hprep hb, hanen, Bool.true_eq_false, if_false]

/-- TICK with finite bounds runs both channels, the left one first (R240). -/
theorem exec_tick_of_enabled (hb : someBoundNotFinite b = false) :
    exec (.tick b) s = .next (tickChannel .r b (tickChannel .l b s)) := by
  simp only [exec, execTick, boundsCheck_eq_none hprep hb, hanen, Bool.true_eq_false, if_false]

end

/-- An FFT on a frame queue with room adds its frame (R228). -/
theorem fftStep_of_room (h : (s.fq.get c).length < s.cfg.fcap) :
    fftStep c s = { s with
      fq := s.fq.set c (s.fq.get c ++ [spectrumDb s.cfg s.floor (s.roll.get c)]) } := by
  simp [fftStep, frameRoom, h]

/-- An FFT on a full frame queue changes nothing (R228). -/
theorem fftStep_of_full (h : s.cfg.fcap ≤ (s.fq.get c).length) : fftStep c s = s := by
  simp [fftStep, frameRoom, Nat.not_lt.mpr h]

end Sys2Proof.Machine
end

section
/-! SUPPORT. A path, bin by bin (45_analyzer.md R230 to R233). -/

namespace Sys2Proof.Machine

variable (cfg : Config) (srate floor : F32) (b : Bounds)

/-- Where bin k with decibel value d is drawn (R231, R232). -/
def mappedPoint (k : Nat) (d : F32) : Point :=
  ⟨xMap cfg (binFreq cfg srate k) b.left b.width, yMap cfg.num.record floor d b.top b.height⟩

theorem binPoint_eq (k : Nat) (d : F32) :
    binPoint cfg srate floor b k d =
      if inRange cfg (binFreq cfg srate k) then some (mappedPoint cfg srate floor b k d)
      else none := rfl

/-- The path of the bins from k on has a point for each of them that is in range, in order (R233). -/
theorem pathFrom_eq (k : Nat) (frame : List F32) :
    pathFrom cfg srate floor b k frame =
      ((List.range frame.length).filter fun i => inRange cfg (binFreq cfg srate (k + i))).map
        fun i => mappedPoint cfg srate floor b (k + i) (frame.getD i 0#32) := by
  induction frame generalizing k with
  | nil => rfl
  | cons d ds ih =>
    have hshift (i : Nat) : k + 1 + i = k + (i + 1) := by omega
    rw [pathFrom, ih, binPoint_eq, List.length_cons, List.range_succ_eq_map, List.filter_cons,
      List.filter_map]
    by_cases hin : inRange cfg (binFreq cfg srate k) = true <;>
      simp [hin, Function.comp_def, hshift]

end Sys2Proof.Machine
end

section
/-! The obligations about the analyzer's commands (45_analyzer.md, sections 2 to 4). -/

open Sys2Proof Sys2Proof.Machine

/-- Settles O50: by whether the queue has a block. -/
theorem pullMovesOldestBlock : Obligations.PullMovesOldestBlock :=
  fun _ _ hprep hanen => ⟨exec_pull_of_empty hprep hanen, fun _ _ => exec_pull_of_cons hprep hanen⟩

/-- Settles O51: the frame is `spectrumDb` of the rolling buffer, kept where the frame queue has
room. -/
theorem fftrunQueuesFrame : Obligations.FftrunQueuesFrame := by
  intro c s hprep hanen frame
  have hframe : frame = spectrumDb s.cfg s.floor (s.roll.get c) := rfl
  refine ⟨hframe ▸ spectrumDb_length .., fun hroom => ?kept, fun hfull => ?dropped⟩
  case kept =>
    have hword : frameRoom c s = true := decide_eq_true hroom
    rw [exec_fftrun_of_enabled hprep hanen, fftStep_of_room hroom, hword]
    rfl
  case dropped =>
    have hword : frameRoom c s = false := decide_eq_false (Nat.not_lt.mpr hfull)
    rw [exec_fftrun_of_enabled hprep hanen, fftStep_of_full hfull, hword]
    rfl

/-- Settles O53: the path step finds no frame, or shows the last of them. -/
theorem pathgenShowsNewestFrame : Obligations.PathgenShowsNewestFrame := by
  intro c b s hprep hb hanen
  rw [exec_pathgen_of_enabled hprep hanen hb]
  refine ⟨fun hempty => ?none, fun older newest hfq => ?some⟩
  case none =>
    rw [pathStep_of_empty hempty, hempty]
    rfl
  case some =>
    have hlast : (s.fq.get c).getLast? = some newest := by rw [hfq, List.getLast?_concat]
    rw [pathStep_of_last hlast, hfq, List.length_append]
    rfl

/-- Settles O54: `pathFrom_eq` from bin 0 on. -/
theorem pathHasOnePointPerBinInRange : Obligations.PathHasOnePointPerBinInRange := by
  intro cfg srate floor b frame nm f bottom
  rw [makePath, pathFrom_eq]
  simp only [Nat.zero_add]
  rfl

/-- Settles O55: the words are those the two read-backs respond. -/
theorem frameAndPathReadback : Obligations.FrameAndPathReadback :=
  fun c s => ⟨exec_rdframe_of_none, fun _ => exec_rdframe_of_some, exec_rdpath c s⟩

end

section
/-! SUPPORT. TICK run whole (45_analyzer.md R240), channel by channel: the queue is drained into the
rolling buffer with one frame after each block, and the newest frame kept is shown. -/

namespace Sys2Proof.Machine

/-- The frames pending after a frame for each buffer, those past FCAP dropped (R228, R240). -/
def keptFrames (s : State) (fq rolls : List (List F32)) : List (List F32) :=
  (fq ++ rolls.map (spectrumDb s.cfg s.floor)).take s.cfg.fcap

/-- The frame queue after one FFT, and the frames of the buffers after it. -/
theorem keptFrames_fftStep {c : Chan} {s : State} (hfq : (s.fq.get c).length ≤ s.cfg.fcap)
    (rolls : List (List F32)) :
    keptFrames s ((fftStep c s).fq.get c) rolls =
        keptFrames s (s.fq.get c) (s.roll.get c :: rolls) ∧
      ((fftStep c s).fq.get c).length ≤ s.cfg.fcap := by
  by_cases hroom : (s.fq.get c).length < s.cfg.fcap
  · rw [fftStep_of_room hroom, Chans.get_set_same]
    exact ⟨by simp [keptFrames], by simpa using hroom⟩
  · have hfull : (s.fq.get c).length = s.cfg.fcap := by omega
    rw [fftStep_of_full hfull.ge]
    exact ⟨by rw [keptFrames, keptFrames, ← hfull, List.take_left, List.take_left], hfq⟩

/-- The oldest block moved from the queue, which it leaves, into the rolling buffer (R213, R214). -/
def pulled (c : Chan) (blk : List F32) (rest : List (List F32)) (s : State) : State :=
  { s with
    queue := s.queue.set c rest
    roll := s.roll.set c ((s.roll.get c).drop blk.length ++ blk) }

theorem pullStep_of_cons {c : Chan} {blk : List F32} {rest : List (List F32)} {s : State}
    (h : s.queue.get c = blk :: rest) : pullStep c s = some (pulled c blk rest s) :=
  pullStep_eq_some.mpr ⟨blk, rest, h, rfl⟩

/-- The channel with its queue, holding these blocks, drained (R240). -/
def drained (c : Chan) (blks : List (List F32)) (s : State) : State :=
  { s with
    queue := s.queue.set c []
    roll := s.roll.set c ((rollsAfter (s.roll.get c) blks).getLastD (s.roll.get c))
    fq := s.fq.set c (keptFrames s (s.fq.get c) (rollsAfter (s.roll.get c) blks)) }

theorem drained_nil {c : Chan} {s : State} (hqueue : s.queue.get c = [])
    (hfq : (s.fq.get c).length ≤ s.cfg.fcap) : drained c [] s = s := by
  have hkept : keptFrames s (s.fq.get c) [] = s.fq.get c := by
    rw [keptFrames, List.map_nil, List.append_nil, List.take_of_length_le hfq]
  have hself : s.queue.set c [] = s.queue := hqueue ▸ Chans.set_get_self s.queue c
  simp only [drained, rollsAfter, hkept, hself, Chans.set_get_self, List.getLastD_nil]

/-- One pull and one FFT are the first part of draining the queue. -/
theorem drained_cons {c : Chan} {s : State} (hfq : (s.fq.get c).length ≤ s.cfg.fcap)
    (blk : List F32) (rest : List (List F32)) :
    drained c rest (fftStep c (pulled c blk rest s)) = drained c (blk :: rest) s := by
  obtain ⟨hkept, _⟩ := keptFrames_fftStep (s := pulled c blk rest s) hfq
    (rollsAfter ((pulled c blk rest s).roll.get c) rest)
  have hroll : (pulled c blk rest s).roll.get c = (s.roll.get c).drop blk.length ++ blk :=
    Chans.get_set_same _ _ _
  calc drained c rest (fftStep c (pulled c blk rest s))
      _ = { s with
            queue := (s.queue.set c rest).set c []
            roll := (pulled c blk rest s).roll.set c
              ((rollsAfter ((pulled c blk rest s).roll.get c) rest).getLastD
                ((pulled c blk rest s).roll.get c))
            fq := (fftStep c (pulled c blk rest s)).fq.set c
              (keptFrames (pulled c blk rest s) ((fftStep c (pulled c blk rest s)).fq.get c)
                (rollsAfter ((pulled c blk rest s).roll.get c) rest)) } := rfl
      _ = drained c (blk :: rest) s := by
        rw [hkept, hroll]
        simp only [drained, pulled, fftStep, Chans.set_set_same, rollsAfter, List.getLastD_cons]
        rfl

/-- The pulls of a TICK drain a queue of at most as many blocks as they are (R240). -/
theorem tickPulls_eq {c : Chan} {blks : List (List F32)} {fuel : Nat} {s : State}
    (hqueue : s.queue.get c = blks) (hfuel : blks.length ≤ fuel)
    (hfq : (s.fq.get c).length ≤ s.cfg.fcap) : tickPulls c fuel s = drained c blks s := by
  induction blks generalizing fuel s with
  | nil =>
    rw [drained_nil hqueue hfq]
    cases fuel with
    | zero => rfl
    | succ fuel => simp only [tickPulls, pullStep_eq_none.mpr hqueue]
  | cons blk rest ih =>
    cases fuel with
    | zero => cases hfuel
    | succ fuel =>
      obtain ⟨_, hfqNext⟩ := keptFrames_fftStep (s := pulled c blk rest s) hfq []
      simp only [tickPulls, pullStep_of_cons hqueue]
      rw [← drained_cons hfq]
      exact ih (Chans.get_set_same _ _ _) (Nat.le_of_succ_le_succ hfuel) hfqNext

/-- What a channel shows and holds after a TICK (R240). -/
structure TickShown (c : Chan) (b : Bounds) (s t : State) : Prop where
  queue : t.queue.get c = []
  fq : t.fq.get c = []
  roll : t.roll.get c = (rollsAfter (s.roll.get c) (s.queue.get c)).getLastD (s.roll.get c)
  kept_none : keptFrames s (s.fq.get c) (rollsAfter (s.roll.get c) (s.queue.get c)) = [] →
    t.curframe.get c = s.curframe.get c ∧ t.curpath.get c = s.curpath.get c
  kept_some : ∀ newest,
    (keptFrames s (s.fq.get c) (rollsAfter (s.roll.get c) (s.queue.get c))).getLast? = some newest →
    t.curframe.get c = some newest ∧
      t.curpath.get c = makePath s.cfg s.srate s.floor b newest

/-- A channel of a TICK shows the newest frame kept (R240). -/
theorem tickChannel_shown {c : Chan} (b : Bounds) {s : State}
    (hqueue : (s.queue.get c).length ≤ s.cfg.qcap) (hfq : (s.fq.get c).length ≤ s.cfg.fcap) :
    TickShown c b s (tickChannel c b s) := by
  have hpulls := tickPulls_eq rfl hqueue hfq
  have hkept : (drained c (s.queue.get c) s).fq.get c =
      keptFrames s (s.fq.get c) (rollsAfter (s.roll.get c) (s.queue.get c)) :=
    Chans.get_set_same _ _ _
  have hempty : (drained c (s.queue.get c) s).queue.get c = [] := Chans.get_set_same _ _ _
  have hroll : (drained c (s.queue.get c) s).roll.get c =
      (rollsAfter (s.roll.get c) (s.queue.get c)).getLastD (s.roll.get c) :=
    Chans.get_set_same _ _ _
  rw [tickChannel, hpulls]
  cases hlast : (keptFrames s (s.fq.get c) (rollsAfter (s.roll.get c) (s.queue.get c))).getLast? with
  | none =>
    have hnil := List.getLast?_eq_none_iff.mp hlast
    rw [pathStep_of_empty (hkept.trans hnil)]
    exact ⟨hempty, hkept.trans hnil, hroll, fun _ => ⟨rfl, rfl⟩,
      fun newest hnewest => by cases hlast.symm.trans hnewest⟩
  | some frame =>
    rw [pathStep_of_last (hkept ▸ hlast)]
    refine ⟨hempty, Chans.get_set_same _ _ _, hroll, fun hnil => ?_, fun newest hnewest => ?_⟩
    · cases hlast.symm.trans (hnil ▸ List.getLast?_nil)
    · cases hlast.symm.trans hnewest
      exact ⟨Chans.get_set_same _ _ _, Chans.get_set_same _ _ _⟩

end Sys2Proof.Machine
end

section
/-! SUPPORT. The analyzer's operations stay on their channel (10_state.md, section 3; 45_analyzer.md
R240). -/

namespace Sys2Proof.Machine

/-- t is s but for the queue and the analyzer's storage of one channel. -/
def OnlyAnalyzer (c : Chan) (s t : State) : Prop :=
  t = { s with
    queue := s.queue.set c (t.queue.get c)
    roll := s.roll.set c (t.roll.get c)
    fq := s.fq.set c (t.fq.get c)
    curframe := s.curframe.set c (t.curframe.get c)
    curpath := s.curpath.set c (t.curpath.get c) }

variable {c : Chan} {s t u : State}

theorem OnlyAnalyzer.refl (c : Chan) (s : State) : OnlyAnalyzer c s s := by
  simp only [OnlyAnalyzer, Chans.set_get_self]

theorem OnlyAnalyzer.trans (hst : OnlyAnalyzer c s t) (htu : OnlyAnalyzer c t u) :
    OnlyAnalyzer c s u := by
  unfold OnlyAnalyzer at *
  rw [hst] at htu
  simpa only [Chans.set_set_same] using htu

/-- The other channel's elements are as they were. -/
theorem OnlyAnalyzer.get_ne (h : OnlyAnalyzer c s t) {d : Chan} (hd : d ≠ c) :
    t.queue.get d = s.queue.get d ∧ t.roll.get d = s.roll.get d ∧ t.fq.get d = s.fq.get d ∧
      t.curframe.get d = s.curframe.get d ∧ t.curpath.get d = s.curpath.get d := by
  rw [h]
  exact ⟨Chans.get_set_ne _ _ hd, Chans.get_set_ne _ _ hd, Chans.get_set_ne _ _ hd,
    Chans.get_set_ne _ _ hd, Chans.get_set_ne _ _ hd⟩

theorem pullStep_onlyAnalyzer (h : pullStep c s = some t) : OnlyAnalyzer c s t := by
  obtain ⟨blk, rest, _, rfl⟩ := pullStep_eq_some.mp h
  simp only [OnlyAnalyzer, Chans.get_set_same, Chans.set_get_self]

theorem fftStep_onlyAnalyzer (c : Chan) (s : State) : OnlyAnalyzer c s (fftStep c s) := by
  simp only [OnlyAnalyzer, fftStep, Chans.get_set_same, Chans.set_get_self]

theorem pathStep_onlyAnalyzer (c : Chan) (b : Bounds) (s : State) :
    OnlyAnalyzer c s (pathStep c b s) := by
  cases hlast : (s.fq.get c).getLast? with
  | none =>
    rw [pathStep_of_empty (List.getLast?_eq_none_iff.mp hlast)]
    exact .refl c s
  | some frame =>
    rw [pathStep_of_last hlast]
    simp only [OnlyAnalyzer, Chans.get_set_same, Chans.set_get_self]

theorem tickPulls_onlyAnalyzer (c : Chan) (fuel : Nat) (s : State) :
    OnlyAnalyzer c s (tickPulls c fuel s) := by
  induction fuel generalizing s with
  | zero => exact .refl c s
  | succ fuel ih =>
    unfold tickPulls
    split
    next => exact .refl c s
    next t hpull =>
      exact (pullStep_onlyAnalyzer hpull).trans ((fftStep_onlyAnalyzer c t).trans (ih _))

/-- A channel of a TICK leaves the other channel alone (R240). -/
theorem tickChannel_onlyAnalyzer (c : Chan) (b : Bounds) (s : State) :
    OnlyAnalyzer c s (tickChannel c b s) :=
  (tickPulls_onlyAnalyzer c _ s).trans (pathStep_onlyAnalyzer c b _)

/-- What a channel shows after a TICK of another channel is what it showed before. -/
theorem TickShown.of_other {d : Chan} {b : Bounds} (h : TickShown c b s t) (hd : c ≠ d)
    (htu : OnlyAnalyzer d t u) : TickShown c b s u := by
  obtain ⟨hqueue, hroll, hfq, hcur, hpath⟩ := htu.get_ne hd
  refine ⟨hqueue.trans h.queue, hfq.trans h.fq, hroll.trans h.roll, fun hnil => ?_, fun f hf => ?_⟩
  · obtain ⟨hc, hp⟩ := h.kept_none hnil
    exact ⟨hcur.trans hc, hpath.trans hp⟩
  · obtain ⟨hc, hp⟩ := h.kept_some f hf
    exact ⟨hcur.trans hc, hpath.trans hp⟩

/-- What a channel shows after a TICK does not depend on what the other channel held. -/
theorem TickShown.from_other {d : Chan} {b : Bounds} (h : TickShown c b t u) (hd : c ≠ d)
    (hst : OnlyAnalyzer d s t) : TickShown c b s u := by
  obtain ⟨hqueue, hroll, hfq, hcur, hpath⟩ := hst.get_ne hd
  have hkept (fq rolls : List (List F32)) : keptFrames t fq rolls = keptFrames s fq rolls := by
    rw [hst]
    rfl
  have hmake (f : List F32) :
      makePath t.cfg t.srate t.floor b f = makePath s.cfg s.srate s.floor b f := by
    rw [hst]
  obtain ⟨h1, h2, h3, h4, h5⟩ := h
  simp only [hqueue, hroll, hfq, hcur, hpath, hkept, hmake] at h1 h2 h3 h4 h5
  exact ⟨h1, h2, h3, h4, h5⟩

/-- Both channels of a TICK show the newest frame kept (R240). -/
theorem tick_shown (b : Bounds) (h : s.Inv) (c : Chan) :
    TickShown c b s (tickChannel .r b (tickChannel .l b s)) := by
  have hleft := tickChannel_onlyAnalyzer .l b s
  have hfits (c : Chan) : (s.queue.get c).length ≤ s.cfg.qcap ∧ (s.fq.get c).length ≤ s.cfg.fcap := by
    obtain ⟨_, hqueue, _⟩ := h.queues c
    obtain ⟨_, hfq, _⟩ := h.analyzer c
    exact ⟨hqueue, hfq⟩
  cases c with
  | l =>
    obtain ⟨hqueue, hfq⟩ := hfits .l
    exact (tickChannel_shown b hqueue hfq).of_other (d := .r) nofun (tickChannel_onlyAnalyzer .r b _)
  | r =>
    obtain ⟨hqueue, hfq⟩ := hfits .r
    obtain ⟨hqueueEq, _, hfqEq, _⟩ := hleft.get_ne (d := .r) nofun
    have hcfg : (tickChannel .l b s).cfg = s.cfg := by rw [hleft]
    rw [← hqueueEq, ← hcfg] at hqueue
    rw [← hfqEq, ← hcfg] at hfq
    exact (tickChannel_shown b hqueue hfq).from_other (d := .l) nofun hleft

end Sys2Proof.Machine
end

section
/-! The obligation about a TICK run whole (45_analyzer.md R240). -/

open Sys2Proof Sys2Proof.Machine

/-- Settles O56: each channel's pulls drain its queue (`tickPulls_eq`) and its path step shows the last
frame kept; the other channel does not interfere (`tick_shown`). -/
theorem tickShowsNewestKeptFrame : Obligations.TickShowsNewestKeptFrame := by
  intro b s hinv hprep hb hanen
  refine ⟨_, exec_tick_of_enabled hprep hanen hb, ?frame, fun c => ?channel⟩
  case frame => rw [tickChannel_frame, tickChannel_frame .l]
  case channel =>
    obtain ⟨hqueue, hfq, hroll, hnone, hsome⟩ := tick_shown b hinv c
    exact ⟨hqueue, hfq, hroll, hnone, hsome⟩

end

section
/-! SUPPORT. What each command may change (10_state.md, sections 2 to 6), said once for every
constructor of `Instr`. -/

namespace Sys2Proof.Machine

/-- t is s but for what this command may write: the elements of state its rule names, and the fault
bits and responses of its port. -/
def CommandFrame (i : Instr) (s t : State) : Prop :=
  match i with
  | .nop _ => t = s
  | .prepare _ _ =>
    t = { s with
      srate := t.srate, maxblk := t.maxblk, prepared := t.prepared, dly := t.dly, acc := t.acc
      queue := t.queue, roll := t.roll, fq := t.fq, curframe := t.curframe, curpath := t.curpath
      fstat := s.fstat.set .a t.fstat.a, io := s.io.set .a t.io.a }
  | .setcoef _ _ => t = { s with coef := t.coef }
  | .setbyp _ _ => t = { s with pbyp := t.pbyp }
  | .cutupd _ _ _ =>
    t = { s with
      coef := t.coef, sbyp := t.sbyp, slope := t.slope
      fstat := s.fstat.set .a t.fstat.a, io := s.io.set .a t.io.a }
  | .proc _ _ _ =>
    t = { s with
      dly := t.dly, acc := t.acc, queue := t.queue
      fstat := s.fstat.set .a t.fstat.a, io := s.io.set .a t.io.a }
  | .magq _ => t = { s with fstat := s.fstat.set .a t.fstat.a, io := s.io.set .a t.io.a }
  | .rdcsr p _ => t = { s with io := s.io.set p (t.io.get p) }
  | .wrcsr .a _ _ => t = { s with fstat := s.fstat.set .a t.fstat.a, io := s.io.set .a t.io.a }
  | .wrcsr .v _ _ =>
    t = { s with
      anen := t.anen, floor := t.floor
      fstat := s.fstat.set .v t.fstat.v, io := s.io.set .v t.io.v }
  | .rdcoef _ | .rddly _ _ => t = { s with io := s.io.set .a t.io.a }
  | .pull _ | .fftrun _ | .pathgen _ _ | .tick _ =>
    t = { s with
      queue := t.queue, roll := t.roll, fq := t.fq, curframe := t.curframe, curpath := t.curpath
      fstat := s.fstat.set .v t.fstat.v, io := s.io.set .v t.io.v }
  | .rdframe _ | .rdpath _ => t = { s with io := s.io.set .v t.io.v }
  | .tcdirty => t = { s with dirty := t.dirty, io := s.io.set .v t.io.v }

/-- A write of a register changes the register, the fault bits or the responses of its port (R258). -/
theorem execWrcsr_frame {p : PortId} {r : Csr} {w : Word} {s t : State}
    (h : execWrcsr p r w s = .next t) : CommandFrame (.wrcsr p r w) s t := by
  unfold execWrcsr at h
  rcases csrWrite_cases p r w s with
      ⟨_, hw⟩ | ⟨rfl, _, hw⟩ | ⟨rfl, _, _, hw⟩ | ⟨rfl, _, _, hw⟩ | ⟨_, hw⟩ <;>
    rw [hw] at h <;> cases h
  case inl => cases p <;> rfl
  case inr.inr.inr.inr => cases p <;> rfl
  all_goals rfl

/-- Every command changes no more than its rule names. -/
theorem exec_frame {i : Instr} {s t : State} (h : exec i s = .next t) : CommandFrame i s t := by
  cases i
  case prepare sr mb =>
    rcases execPrepare_cases sr mb s with ⟨_, he⟩ | ⟨_, he⟩ <;>
      (cases he.symm.trans h; rfl)
  case cutupd c o sets =>
    by_cases hlen : sets.length = o.toNat + 1
    · cases (execCutupd_of_length hlen c s).symm.trans h
      rfl
    · cases (execCutupd_of_length_ne hlen c s).symm.trans h
      rfl
  case proc nch n payload =>
    rcases execProc_cases nch n payload s with ⟨_, he⟩ | ⟨k, _, _, he⟩ | ⟨_, _, he⟩ <;>
      cases he.symm.trans h
    · rfl
    · rfl
    · rw [procChannels_frame]
      rfl
  case magq f =>
    rcases execMagq_cases f s with ⟨_, he⟩ | ⟨_, _, he⟩ | ⟨_, _, he⟩ <;>
      (cases he.symm.trans h; rfl)
  case rdcsr p r =>
    cases h
    cases p <;> rfl
  case wrcsr p r w => exact execWrcsr_frame h
  case pull c =>
    rcases execPull_cases c s with ⟨_, he⟩ | ⟨_, _, he⟩ | ⟨u, _, _, hpull, he⟩ <;>
      cases he.symm.trans h
    · rfl
    · rfl
    · rw [pullStep_frame hpull]
      rfl
  case fftrun c =>
    rcases execFftrun_cases c s with ⟨_, he⟩ | ⟨_, _, he⟩ | ⟨_, _, he⟩ <;>
      (cases he.symm.trans h; rfl)
  case pathgen c b =>
    rcases execPathgen_cases c b s with ⟨k, _, he⟩ | ⟨_, _, he⟩ | ⟨_, _, he⟩ <;>
      cases he.symm.trans h
    · rfl
    · rfl
    · rw [pathStep_frame]
      rfl
  case rdframe c =>
    obtain ⟨ws, he⟩ := execRdframe_eq c s
    cases he.symm.trans h
    rfl
  case tick b =>
    rcases execTick_cases b s with ⟨k, _, he⟩ | ⟨_, _, he⟩ | ⟨_, _, he⟩ <;>
      cases he.symm.trans h
    · rfl
    · rfl
    · rw [tickChannel_frame, tickChannel_frame .l]
      rfl
  all_goals
    cases h
    rfl

/-- What no command changes: the parameters, the agenda and the commands in flight. -/
theorem exec_machinery {i : Instr} {s t : State} (h : exec i s = .next t) :
    t.cfg = s.cfg ∧ t.sched = s.sched ∧ t.procRun = s.procRun ∧ t.tickRun = s.tickRun := by
  have hframe := exec_frame h
  cases i
  case wrcsr p r w => cases p <;> (rw [hframe]; exact ⟨rfl, rfl, rfl, rfl⟩)
  all_goals
    rw [hframe]
    exact ⟨rfl, rfl, rfl, rfl⟩

/-- What no command of port V changes: the filters, the session, the accumulators and port A
(10_state.md, section 6). -/
theorem exec_portV {i : Instr} {s t : State} (hi : i.port = .v) (h : exec i s = .next t) :
    t.coef = s.coef ∧ t.dly = s.dly ∧ t.pbyp = s.pbyp ∧ t.sbyp = s.sbyp ∧ t.slope = s.slope ∧
      t.prepared = s.prepared ∧ t.srate = s.srate ∧ t.maxblk = s.maxblk ∧ t.acc = s.acc ∧
      t.fstat.a = s.fstat.a ∧ t.io.a = s.io.a := by
  have hframe := exec_frame h
  cases i <;> cases hi
  all_goals
    rw [hframe]
    exact ⟨rfl, rfl, rfl, rfl, rfl, rfl, rfl, rfl, rfl, rfl, rfl⟩

/-- What no command of port A changes: ANEN, FLOOR, DIRTY and port V (10_state.md, section 6). -/
theorem exec_portA {i : Instr} {s t : State} (hi : i.port = .a) (h : exec i s = .next t) :
    t.anen = s.anen ∧ t.floor = s.floor ∧ t.dirty = s.dirty ∧ t.fstat.v = s.fstat.v ∧
      t.io.v = s.io.v := by
  have hframe := exec_frame h
  cases i <;> cases hi
  all_goals
    rw [hframe]
    exact ⟨rfl, rfl, rfl, rfl, rfl⟩

/-- The analyzer's storage is port V's but for PREPARE (10_state.md, section 6). -/
theorem exec_portA_analyzer {i : Instr} {s t : State} (hi : i.port = .a)
    (hprepare : ∀ sr mb, i ≠ .prepare sr mb) (h : exec i s = .next t) :
    t.roll = s.roll ∧ t.fq = s.fq ∧ t.curframe = s.curframe ∧ t.curpath = s.curpath := by
  have hframe := exec_frame h
  cases i <;> cases hi
  case prepare sr mb => exact absurd rfl (hprepare sr mb)
  all_goals
    rw [hframe]
    exact ⟨rfl, rfl, rfl, rfl⟩

/-- COEF is written by SETCOEF and CUTUPD only (10_state.md, section 2). -/
theorem exec_coef {i : Instr} {s t : State} (hset : ∀ st k, i ≠ .setcoef st k)
    (hcut : ∀ c o sets, i ≠ .cutupd c o sets) (h : exec i s = .next t) : t.coef = s.coef := by
  have hframe := exec_frame h
  cases i
  case setcoef st k => exact absurd rfl (hset st k)
  case cutupd c o sets => exact absurd rfl (hcut c o sets)
  case wrcsr p r w => cases p <;> rw [hframe]
  all_goals rw [hframe]

/-- A delay record is written by PROC and PREPARE only (10_state.md, section 2). -/
theorem exec_dly {i : Instr} {s t : State} (hproc : ∀ nch n payload, i ≠ .proc nch n payload)
    (hprepare : ∀ sr mb, i ≠ .prepare sr mb) (h : exec i s = .next t) : t.dly = s.dly := by
  have hframe := exec_frame h
  cases i
  case proc nch n payload => exact absurd rfl (hproc nch n payload)
  case prepare sr mb => exact absurd rfl (hprepare sr mb)
  case wrcsr p r w => cases p <;> rw [hframe]
  all_goals rw [hframe]

/-- A position flag is written by SETBYP only (10_state.md, section 4). -/
theorem exec_pbyp {i : Instr} {s t : State} (hset : ∀ p flag, i ≠ .setbyp p flag)
    (h : exec i s = .next t) : t.pbyp = s.pbyp := by
  have hframe := exec_frame h
  cases i
  case setbyp p flag => exact absurd rfl (hset p flag)
  case wrcsr p r w => cases p <;> rw [hframe]
  all_goals rw [hframe]

/-- Starting a command is the whole of it, or puts a PROC or TICK in flight (R75). -/
theorem beginCommand_frame {i : Instr} {s t : State} (h : beginCommand i s = .next t) :
    exec i s = .next t ∨ (i.port = .a ∧ t = { s with procRun := t.procRun }) ∨
      (i.port = .v ∧ t = { s with tickRun := t.tickRun }) := by
  rcases beginCommand_cases i s with he | ⟨_, _, _, rfl, _, _, he⟩ | ⟨_, rfl, _, _, he⟩
  · exact .inl (he.symm.trans h)
  · cases he.symm.trans h
    exact .inr (.inl ⟨rfl, rfl⟩)
  · cases he.symm.trans h
    exact .inr (.inr ⟨rfl, rfl⟩)

end Sys2Proof.Machine
end

section
/-! SUPPORT. What each event that is no command and no reset may change (20_memory.md R74, R75). -/

namespace Sys2Proof.Machine

/-- t is s but for what this event may write. -/
def EventFrame (e : Event) (s t : State) : Prop :=
  match e with
  | .filter c => t = { s with procRun := t.procRun, dly := s.dly.set c (t.dly.get c) }
  | .push c =>
    t = { s with
      procRun := t.procRun, acc := s.acc.set c (t.acc.get c)
      queue := s.queue.set c (t.queue.get c) }
  | .respond =>
    t = { s with procRun := t.procRun, io := ⟨⟨s.io.a.cmd, s.io.a.rx, t.io.a.rsp⟩, s.io.v⟩ }
  | .tick =>
    match s.tickRun with
    | none => t = s
    | some run =>
      t = { s with
        tickRun := t.tickRun
        queue := s.queue.set run.ch (t.queue.get run.ch)
        roll := s.roll.set run.ch (t.roll.get run.ch)
        fq := s.fq.set run.ch (t.fq.get run.ch)
        curframe := s.curframe.set run.ch (t.curframe.get run.ch)
        curpath := s.curpath.set run.ch (t.curpath.get run.ch) }
  | .accept p =>
    t = { s with io := s.io.set p ⟨(t.io.get p).cmd, (t.io.get p).rx, (s.io.get p).rsp⟩ }
  | .take p =>
    t = { s with io := s.io.set p ⟨(s.io.get p).cmd, (s.io.get p).rx, (t.io.get p).rsp⟩ }
  | .paramChanged => t = { s with dirty := true }
  | .command _ | .start _ | .reset => True

theorem filterMicro_eventFrame (c : Chan) (s : State) :
    EventFrame (.filter c) s (filterMicro c s) := by
  have hidle : EventFrame (.filter c) s s := by simp only [EventFrame, Chans.set_get_self]
  unfold filterMicro
  split
  next => exact hidle
  next =>
    split
    next => exact hidle
    next =>
      split
      next => exact hidle
      next => simp only [EventFrame, filterStep, Chans.get_set_same]

theorem pushMicro_eventFrame (c : Chan) (s : State) : EventFrame (.push c) s (pushMicro c s) := by
  have hidle : EventFrame (.push c) s s := by simp only [EventFrame, Chans.set_get_self]
  unfold pushMicro
  split
  next => exact hidle
  next =>
    split
    next => exact hidle
    next =>
      split
      next => exact hidle
      next => simp only [EventFrame, qPush, Chans.get_set_same]

theorem respondMicro_eventFrame (s : State) : EventFrame .respond s (respondMicro s) := by
  unfold respondMicro
  split
  next => rfl
  next => split <;> rfl

/-- A micro-step of TICK is an operation on the channel the TICK is at (R240). -/
theorem tickMicro_onlyAnalyzer {s : State} {run : TickRun} (hrun : s.tickRun = some run) :
    ∃ u next, OnlyAnalyzer run.ch s u ∧ tickMicro s = { u with tickRun := next } := by
  simp only [tickMicro, hrun]
  split
  next =>
    split
    next => exact ⟨s, _, .refl _ s, rfl⟩
    next t hpull => exact ⟨t, _, pullStep_onlyAnalyzer hpull, rfl⟩
  next => exact ⟨_, _, fftStep_onlyAnalyzer run.ch s, rfl⟩
  next => exact ⟨_, _, pathStep_onlyAnalyzer run.ch run.bounds s, rfl⟩

theorem tickMicro_eventFrame (s : State) : EventFrame .tick s (tickMicro s) := by
  cases hrun : s.tickRun with
  | none => simp only [EventFrame, tickMicro, hrun]
  | some run =>
    obtain ⟨u, next, hu, he⟩ := tickMicro_onlyAnalyzer hrun
    simp only [EventFrame, hrun, he]
    rw [hu]
    simp only [Chans.get_set_same]

theorem acceptWord_eventFrame (p : PortId) (s : State) :
    EventFrame (.accept p) s (acceptWord p s) := by
  have hidle : EventFrame (.accept p) s s := by cases p <;> rfl
  unfold acceptWord
  split
  next => exact hidle
  next =>
    split
    next => exact hidle
    next =>
      split
      next => exact hidle
      next => cases p <;> rfl

/-- Every event changes no more than its rule names. -/
theorem runEvent_frame {e : Event} {s t : State} (h : runEvent e s = .next t) :
    EventFrame e s t := by
  cases e
  case command | start | reset => exact trivial
  all_goals cases h
  case filter c => exact filterMicro_eventFrame c s
  case push c => exact pushMicro_eventFrame c s
  case respond => exact respondMicro_eventFrame s
  case tick => exact tickMicro_eventFrame s
  case accept p => exact acceptWord_eventFrame p s
  case take p => cases p <;> rfl
  case paramChanged => rfl

end Sys2Proof.Machine
end

section
/-! SUPPORT. The two micro-steps that write a queue (20_memory.md R75; 44_sample_queue.md R193;
45_analyzer.md R240). -/

namespace Sys2Proof.Machine

/-- A push micro-step leaves the queue of a channel as it was, or appends the block that the oldest
output not yet pushed completes (R193, R194). -/
theorem pushMicro_queue (c d : Chan) (s : State) :
    (pushMicro d s).queue.get c = s.queue.get c ∨
    (d = c ∧ ∃ run ln v, s.procRun = some run ∧ run.lane? c = some ln ∧ ln.pend.head? = some v ∧
      (s.queue.get c).length < s.cfg.qcap ∧ (s.acc.get c).length + 1 = s.maxblk ∧
      (pushMicro d s).queue.get c = s.queue.get c ++ [s.acc.get c ++ [v]] ∧
      (pushMicro d s).acc.get c = []) := by
  unfold pushMicro
  split
  next => exact .inl rfl
  next run hrun =>
    split
    next => exact .inl rfl
    next ln hlane =>
      split
      next => exact .inl rfl
      next v vs hpend =>
        by_cases hd : c = d
        · subst hd
          by_cases hblock : (s.acc.get c).length + 1 = s.maxblk ∧ (s.queue.get c).length < s.cfg.qcap
          · obtain ⟨hfull, hroom⟩ := hblock
            exact .inr ⟨rfl, run, ln, v, hrun, hlane, by rw [hpend, List.head?_cons], hroom, hfull,
              (qPush_queue c v s).trans (if_pos ⟨hfull, hroom⟩),
              (qPush_acc c v s).trans (if_pos hfull)⟩
          · exact .inl ((qPush_queue c v s).trans (if_neg hblock))
        · exact .inl (qPush_other d c v s hd).2

/-- A micro-step of TICK leaves the queue of a channel as it was, or moves its oldest block into its
rolling buffer (R213, R240). -/
theorem tickMicro_queue (c : Chan) (s : State) :
    (tickMicro s).queue.get c = s.queue.get c ∨
    ∃ run blk, s.tickRun = some run ∧ run.ch = c ∧
      s.queue.get c = blk :: (tickMicro s).queue.get c ∧
      (tickMicro s).roll.get c = (s.roll.get c).drop blk.length ++ blk := by
  unfold tickMicro
  split
  next => exact .inl rfl
  next run hrun =>
    split
    next =>
      split
      next => exact .inl rfl
      next t hpull =>
        obtain ⟨blk, rest, hqueue, rfl⟩ := pullStep_eq_some.mp hpull
        by_cases hc : c = run.ch
        · subst hc
          exact .inr ⟨run, blk, hrun, rfl, hqueue.trans (by rw [Chans.get_set_same]),
            Chans.get_set_same _ _ _⟩
        · exact .inl (Chans.get_set_ne _ _ hc)
    next => exact .inl rfl
    next =>
      have hqueue : (pathStep run.ch run.bounds s).queue = s.queue := by rw [pathStep_frame]
      exact .inl (congrArg (Chans.get · c) hqueue)

end Sys2Proof.Machine
end

section
/-! The obligations about who writes what (10_state.md, section 6; 20_memory.md, section 3). -/

open Sys2Proof Sys2Proof.Machine

/-- Settles O59: the commands by `exec_frame`, starting one by `beginCommand_frame`, the other events by
`runEvent_frame` at the state without the agenda's entry. -/
theorem portsOwnTheirState : Obligations.PortsOwnTheirState := by
  refine ⟨fun i s t h => ?command, fun i s t => beginCommand_frame, fun e es s t hnext h => ?event⟩
  case command =>
    obtain ⟨hcfg, hsched, hproc, htick⟩ := exec_machinery h
    exact ⟨hcfg, hsched, hproc, htick, fun hi => exec_portV hi h, fun hi => exec_portA hi h,
      fun hi hprepare => exec_portA_analyzer hi hprepare h⟩
  case event =>
    have hframe := runEvent_frame ((step_of_nextEvent hnext).symm.trans h)
    cases e <;> exact hframe

/-- Settles O60: the commands by `exec_frame`, the other events by `runEvent_frame`. -/
theorem filterRegisterWriters : Obligations.FilterRegisterWriters := by
  refine ⟨fun i s t h => ⟨fun hset hcut => exec_coef hset hcut h,
    fun hproc hprepare => exec_dly hproc hprepare h, fun hset => exec_pbyp hset h⟩,
    fun e es s t hnext hcommand hreset h => ?event⟩
  case event =>
    have hframe := runEvent_frame ((step_of_nextEvent hnext).symm.trans h)
    cases e
    case command p => exact absurd rfl (hcommand p).1
    case start p => exact absurd rfl (hcommand p).2
    case reset => exact absurd rfl hreset
    case filter d =>
      rw [hframe]
      exact ⟨rfl, rfl, fun c hc => Chans.get_set_ne _ _ fun heq => hc (by rw [heq])⟩
    case tick =>
      have hrunFrame := tickMicro_frame { s with sched := es }
      cases (step_of_nextEvent hnext).symm.trans h
      rw [hrunFrame]
      exact ⟨rfl, rfl, fun _ _ => rfl⟩
    all_goals
      rw [hframe]
      exact ⟨rfl, rfl, fun _ _ => rfl⟩

/-- Settles O48: of the micro-steps only a push and a step of TICK write a queue: the push of a block
that is complete and finds room (`qPush_queue`), and the pull of the oldest block. -/
theorem queueChangesByMicroStep : Obligations.QueueChangesByMicroStep := by
  intro s t c e es hnext hcommand hreset h
  have hframe := runEvent_frame ((step_of_nextEvent hnext).symm.trans h)
  cases e
  case command p => exact absurd rfl (hcommand p).1
  case start p => exact absurd rfl (hcommand p).2
  case reset => exact absurd rfl hreset
  case push d =>
    cases (step_of_nextEvent hnext).symm.trans h
    rcases pushMicro_queue c d { s with sched := es } with hkept | ⟨rfl, hblock⟩
    · exact .inl hkept
    · exact .inr (.inl ⟨rfl, hblock⟩)
  case tick =>
    cases (step_of_nextEvent hnext).symm.trans h
    rcases tickMicro_queue c { s with sched := es } with hkept | hpulled
    · exact .inl hkept
    · exact .inr (.inr ⟨rfl, hpulled⟩)
  all_goals
    rw [hframe]
    exact .inl rfl

end

section
/-! SUPPORT. The samples of one channel in closed form (42_mono_chain.md R160): what a channel of PROC
does is `chainRun` on its delay records and `pushRun` on its accumulator and queue. -/

namespace Sys2Proof.Machine

/-- A run over two lists of samples is a run over the first and then over the second (R163). -/
theorem chainRun_append (nm : NumRecord) (g : Settings) (d : Bank Delay) (u w : List F32) :
    chainRun nm g d (u ++ w) =
      ((chainRun nm g d u).1 ++ (chainRun nm g (chainRun nm g d u).2 w).1,
        (chainRun nm g (chainRun nm g d u).2 w).2) := by
  induction u generalizing d with
  | nil => rfl
  | cons x xs ih => simp [chainRun, ih]

/-- A chain answers one output for each sample (R133). -/
theorem chainRun_length (nm : NumRecord) (g : Settings) (d : Bank Delay) (xs : List F32) :
    (chainRun nm g d xs).1.length = xs.length := by
  induction xs generalizing d with
  | nil => rfl
  | cons x xs ih => simp [chainRun, ih]

theorem pushRun_append (maxblk qcap : Nat) (q : List F32 × List (List F32)) (u w : List F32) :
    pushRun maxblk qcap q (u ++ w) = pushRun maxblk qcap (pushRun maxblk qcap q u) w := by
  induction u generalizing q with
  | nil => rw [List.nil_append, pushRun]
  | cons v vs ih => exact ih _

/-- The first sample of a push run is one push (R193). -/
theorem pushRun_cons (c : Chan) (v : F32) (vs : List F32) (s : State) :
    pushRun s.maxblk s.cfg.qcap (s.acc.get c, s.queue.get c) (v :: vs) =
      pushRun s.maxblk s.cfg.qcap ((qPush c v s).acc.get c, (qPush c v s).queue.get c) vs := by
  rw [qPush_acc, qPush_queue, pushRun]
  by_cases hfull : (s.acc.get c).length + 1 = s.maxblk <;> simp [hfull]

/-- The accumulator after a push run does not depend on the queue, nor on its capacity (R194). -/
theorem pushRun_acc (maxblk qcap qcap' : Nat) (acc : List F32) (queue queue' : List (List F32))
    (vs : List F32) :
    (pushRun maxblk qcap (acc, queue) vs).1 = (pushRun maxblk qcap' (acc, queue') vs).1 := by
  induction vs generalizing acc queue queue' with
  | nil => rfl
  | cons v vs ih =>
    rw [pushRun, pushRun]
    split
    next => exact ih ..
    next => exact ih ..

/-- The samples of channel c run through its chain from the state s. -/
def runFrom (s : State) (c : Chan) (xs : List F32) : List F32 × Bank Delay :=
  chainRun s.num s.settings (s.dly.get c) xs

/-- These outputs pushed on channel c from the state s. -/
def pushFrom (s : State) (c : Chan) (ys : List F32) : List F32 × List (List F32) :=
  pushRun s.maxblk s.cfg.qcap (s.acc.get c, s.queue.get c) ys

theorem procSample_dly (c : Chan) (x : F32) (s : State) :
    (procSample c x s).2.dly = s.dly.set c (chainStep s.num s.settings (s.dly.get c) x).2 := rfl

/-- The first sample of a run is one sample of PROC (R160). -/
theorem runFrom_cons (s : State) (c : Chan) (x : F32) (xs : List F32) :
    runFrom s c (x :: xs) =
      ((procSample c x s).1 :: (runFrom (procSample c x s).2 c xs).1,
        (runFrom (procSample c x s).2 c xs).2) := by
  simp only [runFrom, procSample_dly, Chans.get_set_same]
  rfl

/-- The first output pushed is the push of that sample. -/
theorem pushFrom_cons (s : State) (c : Chan) (x : F32) (ys : List F32) :
    pushFrom s c ((procSample c x s).1 :: ys) = pushFrom (procSample c x s).2 c ys :=
  pushRun_cons c (procSample c x s).1 ys (filterStep c x s).2

/-- s after all samples of channel c are filtered and pushed (R160). -/
def channelDone (c : Chan) (xs : List F32) (s : State) : State :=
  { s with
    dly := s.dly.set c (runFrom s c xs).2
    acc := s.acc.set c (pushFrom s c (runFrom s c xs).1).1
    queue := s.queue.set c (pushFrom s c (runFrom s c xs).1).2 }

theorem channelDone_cons (c : Chan) (x : F32) (xs : List F32) (s : State) :
    channelDone c (x :: xs) s = channelDone c xs (procSample c x s).2 := by
  have hdly (d : Bank Delay) : (procSample c x s).2.dly.set c d = s.dly.set c d :=
    Chans.set_set_same _ _ _ _
  have hacc (a : List F32) : (procSample c x s).2.acc.set c a = s.acc.set c a :=
    Chans.set_set_same _ _ _ _
  have hqueue (q : List (List F32)) : (procSample c x s).2.queue.set c q = s.queue.set c q :=
    Chans.set_set_same _ _ _ _
  simp only [channelDone, runFrom_cons, pushFrom_cons, hdly, hacc, hqueue]
  rfl

/-- A channel of PROC in closed form. -/
theorem procChannel_eq (c : Chan) (xs : List F32) (s : State) :
    procChannel c xs s = ((runFrom s c xs).1, channelDone c xs s) := by
  induction xs generalizing s with
  | nil =>
    simp only [procChannel, runFrom, chainRun, channelDone, pushFrom, pushRun, Chans.set_get_self]
  | cons x xs ih => rw [procChannel, ih, runFrom_cons, channelDone_cons]

/-! The channels of a block do not read one another (R160). -/

theorem runFrom_channelDone_ne {c d : Chan} (h : d ≠ c) (xs ys : List F32) (s : State) :
    runFrom (channelDone c xs s) d ys = runFrom s d ys := by
  have hdly : (channelDone c xs s).dly.get d = s.dly.get d := Chans.get_set_ne _ _ h
  rw [runFrom, hdly]
  rfl

theorem pushFrom_channelDone_ne {c d : Chan} (h : d ≠ c) (xs ys : List F32) (s : State) :
    pushFrom (channelDone c xs s) d ys = pushFrom s d ys := by
  have hacc : (channelDone c xs s).acc.get d = s.acc.get d := Chans.get_set_ne _ _ h
  have hqueue : (channelDone c xs s).queue.get d = s.queue.get d := Chans.get_set_ne _ _ h
  rw [pushFrom, hacc, hqueue]
  rfl

/-- What a channel holds after a block whose channels have these samples: the channels of the block
filtered and pushed, any other as it was (R160). -/
def blockDly (nch : ChanCount) (xs : Chan → List F32) (s : State) (c : Chan) : Bank Delay :=
  if c ∈ nch.chans then (runFrom s c (xs c)).2 else s.dly.get c

def blockQueue (nch : ChanCount) (xs : Chan → List F32) (s : State) (c : Chan) :
    List F32 × List (List F32) :=
  if c ∈ nch.chans then pushFrom s c (runFrom s c (xs c)).1 else (s.acc.get c, s.queue.get c)

/-- A function of the channel as one thing for each channel. -/
def Chans.ofFn {α : Type} (f : Chan → α) : Chans α := ⟨f .l, f .r⟩

@[simp] theorem Chans.get_ofFn {α : Type} (f : Chan → α) (c : Chan) : (Chans.ofFn f).get c = f c := by
  cases c <;> rfl

theorem Chans.ofFn_get {α : Type} (x : Chans α) : Chans.ofFn x.get = x := rfl

/-- s after a block of PROC (R160). -/
def blockDone (nch : ChanCount) (xs : Chan → List F32) (s : State) : State :=
  { s with
    dly := .ofFn (blockDly nch xs s)
    acc := .ofFn fun c => (blockQueue nch xs s c).1
    queue := .ofFn fun c => (blockQueue nch xs s c).2 }

theorem blockDone_mono (xs : Chan → List F32) (s : State) :
    blockDone .mono xs s = channelDone .l (xs .l) s := by
  simp [blockDone, channelDone, blockDly, blockQueue, ChanCount.chans, Chans.ofFn, Chans.set,
    Chans.get]

theorem blockDone_stereo (xs : Chan → List F32) (s : State) :
    blockDone .stereo xs s = channelDone .r (xs .r) (channelDone .l (xs .l) s) := by
  have hrun := runFrom_channelDone_ne (c := .l) (d := .r) nofun (xs .l) (xs .r) s
  have hpush := pushFrom_channelDone_ne (c := .l) (d := .r) nofun (xs .l) (runFrom s .r (xs .r)).1 s
  rw [channelDone, hrun, hpush]
  simp [blockDone, channelDone, blockDly, blockQueue, ChanCount.chans, Chans.ofFn, Chans.set]

/-- The channels of PROC in closed form, each on its own samples, the outputs planar (R160). -/
theorem procChannels_eq (nch : ChanCount) (n : Nat) (payload : List F32) (s : State) :
    procChannels n payload nch.chans s =
      (nch.chans.flatMap fun c => (runFrom s c (planar n payload c)).1,
        blockDone nch (planar n payload) s) := by
  cases nch with
  | mono => simp [ChanCount.chans, procChannels, procChannel_eq, blockDone_mono]
  | stereo =>
    simp [ChanCount.chans, procChannels, procChannel_eq, blockDone_stereo,
      runFrom_channelDone_ne (c := .l) (d := .r)]

/-- PROC within its limits in closed form (R160). -/
theorem exec_proc_eq {nch : ChanCount} {n : BitVec 16} {payload : List F32} {s : State}
    (hlen : payload.length = n.toNat * nch.toNat) (hprep : s.prepared = true)
    (hn : n.toNat ≤ s.maxblk) :
    exec (.proc nch n payload) s =
      .next (respond .a (nch.chans.flatMap fun c => (runFrom s c (planar n.toNat payload c)).1)
        (blockDone nch (planar n.toNat payload) s)) := by
  rw [exec_proc_of_check_none hlen (procCheck_eq_none_of_prepared hprep hn), procChannels_eq]

/-! What a block leaves on each channel, element by element. -/

theorem blockDone_get_of_mem {nch : ChanCount} {c : Chan} (hc : c ∈ nch.chans)
    (xs : Chan → List F32) (s : State) :
    (blockDone nch xs s).dly.get c = (runFrom s c (xs c)).2 ∧
      ((blockDone nch xs s).acc.get c, (blockDone nch xs s).queue.get c) =
        pushFrom s c (runFrom s c (xs c)).1 := by
  simp [blockDone, blockDly, blockQueue, hc]

theorem blockDone_get_of_not_mem {nch : ChanCount} {c : Chan} (hc : c ∉ nch.chans)
    (xs : Chan → List F32) (s : State) :
    (blockDone nch xs s).dly.get c = s.dly.get c ∧ (blockDone nch xs s).acc.get c = s.acc.get c ∧
      (blockDone nch xs s).queue.get c = s.queue.get c := by
  simp [blockDone, blockDly, blockQueue, hc]

/-- A channel's samples read back from the planar payload (R98). -/
theorem planar_flatMap {nch : ChanCount} {n : Nat} {f : Chan → List F32}
    (hf : ∀ c ∈ nch.chans, (f c).length = n) {c : Chan} (hc : c ∈ nch.chans) :
    planar n (nch.chans.flatMap f) c = f c := by
  cases nch <;> cases c
  case mono.l =>
    have hl := hf .l hc
    simp [planar, ChanCount.chans, ← hl]
  case mono.r => simp [ChanCount.chans] at hc
  case stereo.l =>
    have hl := hf .l hc
    simp [planar, ChanCount.chans, ← hl]
  case stereo.r =>
    have hl := hf .l (by simp [ChanCount.chans])
    have hr := hf .r hc
    have hlr : (f .r).length = (f .l).length := hr.trans hl.symm
    simp [planar, ChanCount.chans, ← hl, ← hlr]

theorem length_flatMap_chans {nch : ChanCount} {n : Nat} {f : Chan → List F32}
    (hf : ∀ c ∈ nch.chans, (f c).length = n) : (nch.chans.flatMap f).length = n * nch.toNat := by
  cases nch with
  | mono => simp [ChanCount.chans, ChanCount.toNat, hf .l (by simp [ChanCount.chans])]
  | stereo =>
    have hl := hf .l (by simp [ChanCount.chans])
    have hr := hf .r (by simp [ChanCount.chans])
    simp [ChanCount.chans, ChanCount.toNat, hl, hr, Nat.mul_two]

end Sys2Proof.Machine
end

section
/-! SUPPORT. Two blocks one after the other (42_mono_chain.md R163). -/

namespace Sys2Proof.Machine

theorem blockDone_congr {nch : ChanCount} {f g : Chan → List F32} (h : ∀ c ∈ nch.chans, f c = g c)
    (s : State) : blockDone nch f s = blockDone nch g s := by
  have hdly : blockDly nch f s = blockDly nch g s := by
    funext c
    unfold blockDly
    split
    next hc => rw [h c hc]
    next => rfl
  have hqueue : blockQueue nch f s = blockQueue nch g s := by
    funext c
    unfold blockQueue
    split
    next hc => rw [h c hc]
    next => rfl
  rw [blockDone, blockDone, hdly, hqueue]

/-- PROC of a payload laid out channel by channel (R98, R160). -/
theorem exec_proc_flatMap {nch : ChanCount} {n : BitVec 16} {f : Chan → List F32} {s : State}
    (hf : ∀ c ∈ nch.chans, (f c).length = n.toNat) (hprep : s.prepared = true)
    (hn : n.toNat ≤ s.maxblk) :
    exec (.proc nch n (nch.chans.flatMap f)) s =
      .next (respond .a (nch.chans.flatMap fun c => (runFrom s c (f c)).1) (blockDone nch f s)) := by
  have hplanar (c : Chan) (hc : c ∈ nch.chans) : planar n.toNat (nch.chans.flatMap f) c = f c :=
    planar_flatMap hf hc
  have hout : (nch.chans.flatMap fun c =>
      (runFrom s c (planar n.toNat (nch.chans.flatMap f) c)).1) =
        nch.chans.flatMap fun c => (runFrom s c (f c)).1 :=
    List.flatMap_congr fun c hc => by rw [hplanar c hc]
  rw [exec_proc_eq (length_flatMap_chans hf) hprep hn, hout, blockDone_congr hplanar]

/-- A channel of the block after the first samples goes on from the records they leave. -/
theorem runFrom_blockDone {nch : ChanCount} {c : Chan} (hc : c ∈ nch.chans) (u : Chan → List F32)
    (w : List F32) (s : State) :
    runFrom s c (u c ++ w) =
      ((runFrom s c (u c)).1 ++ (runFrom (blockDone nch u s) c w).1,
        (runFrom (blockDone nch u s) c w).2) := by
  obtain ⟨hdly, _⟩ := blockDone_get_of_mem hc u s
  have hnext : runFrom (blockDone nch u s) c w =
      chainRun s.num s.settings (runFrom s c (u c)).2 w := by
    rw [runFrom, hdly]
    rfl
  rw [hnext]
  exact chainRun_append ..

theorem pushFrom_blockDone {nch : ChanCount} {c : Chan} (hc : c ∈ nch.chans) (u : Chan → List F32)
    (ys : List F32) (s : State) :
    pushFrom s c ((runFrom s c (u c)).1 ++ ys) = pushFrom (blockDone nch u s) c ys := by
  obtain ⟨_, hqueue⟩ := blockDone_get_of_mem hc u s
  rw [pushFrom, pushRun_append]
  exact congrArg (pushRun s.maxblk s.cfg.qcap · ys) hqueue.symm

/-- Two blocks one after the other leave what the one block leaves (R163). -/
theorem blockDone_blockDone (nch : ChanCount) (u w : Chan → List F32) (s : State) :
    blockDone nch w (blockDone nch u s) = blockDone nch (fun c => u c ++ w c) s := by
  have hdly : blockDly nch w (blockDone nch u s) = blockDly nch (fun c => u c ++ w c) s := by
    funext c
    by_cases hc : c ∈ nch.chans
    · simp only [blockDly, if_pos hc, runFrom_blockDone hc]
    · obtain ⟨hkept, _⟩ := blockDone_get_of_not_mem hc u s
      simp only [blockDly, if_neg hc, hkept]
  have hqueue : blockQueue nch w (blockDone nch u s) = blockQueue nch (fun c => u c ++ w c) s := by
    funext c
    by_cases hc : c ∈ nch.chans
    · simp only [blockQueue, if_pos hc, runFrom_blockDone hc, pushFrom_blockDone hc]
    · obtain ⟨_, hacc, hqueue⟩ := blockDone_get_of_not_mem hc u s
      simp only [blockQueue, if_neg hc, hacc, hqueue]
  rw [blockDone, hdly, hqueue]
  rfl

/-- A response does not touch what a block reads or writes. -/
theorem blockDone_respond (nch : ChanCount) (f : Chan → List F32) (p : PortId) (ws : List Word)
    (s : State) : blockDone nch f (respond p ws s) = respond p ws (blockDone nch f s) := rfl

end Sys2Proof.Machine
end

section
/-! The obligations about PROC run whole (42_mono_chain.md R160, R163). -/

open Sys2Proof Sys2Proof.Machine

/-- Settles O37: PROC in closed form (`exec_proc_eq`), read channel by channel. -/
theorem procFiltersAndPushes : Obligations.ProcFiltersAndPushes := by
  intro nch n payload s hlen hprep hn
  exact ⟨_, exec_proc_eq hlen hprep hn, fun c hc => blockDone_get_of_mem hc _ s,
    fun c hc => blockDone_get_of_not_mem hc _ s, rfl⟩

/-- Settles O39: the second block goes on where the first one ended (`blockDone_blockDone`,
`runFrom_blockDone`). -/
theorem procSplitsAnywhere : Obligations.ProcSplitsAnywhere := by
  intro nch nu nw nuw u w s hsum hprep hn hlen
  have hu (c : Chan) (hc : c ∈ nch.chans) : (u c).length = nu.toNat := (hlen c hc).1
  have hw (c : Chan) (hc : c ∈ nch.chans) : (w c).length = nw.toNat := (hlen c hc).2
  have huw (c : Chan) (hc : c ∈ nch.chans) : (u c ++ w c).length = nuw.toNat := by
    rw [List.length_append, hu c hc, hw c hc, hsum]
  let t1 := respond .a (nch.chans.flatMap fun c => (runFrom s c (u c)).1) (blockDone nch u s)
  have hwhole : (nch.chans.flatMap fun c => (runFrom s c (u c ++ w c)).1) =
      nch.chans.flatMap fun c => (runFrom s c (u c)).1 ++ (runFrom t1 c (w c)).1 :=
    List.flatMap_congr fun c hc => by
      rw [runFrom_blockDone hc]
      rfl
  refine ⟨_, t1, _, fun c => (runFrom s c (u c)).1, fun c => (runFrom t1 c (w c)).1,
    exec_proc_flatMap huw hprep hn, exec_proc_flatMap hu hprep (by omega),
    exec_proc_flatMap hw hprep (show nw.toNat ≤ s.maxblk by omega), ?sameState,
    fun c hc => ⟨?outLengthU, ?outLengthW⟩, rfl, rfl, ?response⟩
  case sameState =>
    rw [blockDone_respond, blockDone_blockDone]
    rfl
  case outLengthU => exact (chainRun_length ..).trans (hu c hc)
  case outLengthW => exact (chainRun_length ..).trans (hw c hc)
  case response =>
    rw [hwhole]
    rfl

end

section
/-! SUPPORT. Runs over an agenda (20_memory.md R74), one event after the other. -/

namespace Sys2Proof.Machine

theorem runs_zero {s t : State} : Runs 0 s t ↔ s = t :=
  ⟨fun h => by cases h; rfl, fun h => congrArg _ h⟩

/-- A run of k + 1 steps is a step and a run of k (R74). -/
theorem runs_succ {k : Nat} {s t : State} :
    Runs (k + 1) s t ↔ ∃ u, step s = .next u ∧ Runs k u t := by
  obtain ⟨u, hu⟩ := step_next s
  have hrun : Host.Core.run core (k + 1) s = Host.Core.run core k u := by
    simp only [Host.Core.run]
    rw [show core.step s = .next u from hu]
  constructor
  · exact fun h => ⟨u, hu, hrun.symm.trans h⟩
  · rintro ⟨v, hv, h⟩
    cases hu.symm.trans hv
    exact hrun.trans h

/-- No run of any length stops (70_reset_and_hazards.md R322). -/
theorem exists_runs (k : Nat) (s : State) : ∃ t, Runs k s t := by
  induction k generalizing s with
  | zero => exact ⟨s, rfl⟩
  | succ k ih =>
    obtain ⟨u, hu⟩ := step_next s
    obtain ⟨t, ht⟩ := ih u
    exact ⟨t, runs_succ.mpr ⟨u, hu, ht⟩⟩

theorem beginCommand_sched {i : Instr} {s t : State} (h : beginCommand i s = .next t) :
    t.sched = s.sched := by
  rcases beginCommand_frame h with he | ⟨_, hframe⟩ | ⟨_, hframe⟩
  · exact (exec_machinery he).2.1
  · rw [hframe]
  · rw [hframe]

theorem serve_sched {run : Instr → State → Out State}
    (hrun : ∀ {i : Instr} {s t : State}, run i s = .next t → t.sched = s.sched) {p : PortId}
    {s t : State} (h : serve run p s = .next t) : t.sched = s.sched := by
  have hfetched {packet : List Word} {u : State} (hfetch : fetch p s = some (packet, u)) :
      u.sched = s.sched := by rw [fetch_frame hfetch]
  rcases serve_cases run p s with
    he | ⟨packet, u, i, _, hfetch, _, he⟩ | ⟨packet, u, k, _, hfetch, _, he⟩
  · cases he.symm.trans h
    rfl
  · exact (hrun (he.symm.trans h)).trans (hfetched hfetch)
  · cases he.symm.trans h
    exact (hfetched hfetch : u.sched = s.sched)

/-- No event writes the agenda (log 8). -/
theorem runEvent_sched {e : Event} {s t : State} (h : runEvent e s = .next t) :
    t.sched = s.sched := by
  have hframe := runEvent_frame h
  cases e
  case command p => exact serve_sched (fun h => (exec_machinery h).2.1) h
  case start p => exact serve_sched beginCommand_sched h
  case reset =>
    cases h
    rfl
  case tick =>
    cases h
    rw [tickMicro_frame]
  all_goals rw [hframe]

theorem runsAgenda_nil {s t : State} : RunsAgenda [] s t ↔ { s with sched := [] } = t := runs_zero

/-- An agenda runs its first event, and then the rest of it (R74). -/
theorem runsAgenda_cons {e : Event} {es : List Event} {s t : State} :
    RunsAgenda (e :: es) s t ↔
      ∃ u, runEvent e { s with sched := es } = .next u ∧ RunsAgenda es u t := by
  have hstep : step { s with sched := e :: es } = runEvent e { s with sched := es } :=
    step_of_sched rfl
  rw [RunsAgenda, List.length_cons, runs_succ, hstep]
  refine exists_congr fun u => and_congr_right fun hu => ?_
  have hsched : u.sched = es := runEvent_sched hu
  have hself : { u with sched := es } = u := by rw [← hsched]
  rw [RunsAgenda, hself]

/-- What every event of an agenda keeps, and an agenda cannot change, holds where it ends. -/
theorem RunsAgenda.keeps {P : State → Prop} {es : List Event} {s t : State}
    (hrun : RunsAgenda es s t) (hagenda : ∀ s sched, P s → P { s with sched := sched })
    (hstep : ∀ e ∈ es, ∀ s t, P s → runEvent e s = .next t → P t) (hs : P s) :
    P t ∧ t.sched = [] := by
  induction es generalizing s with
  | nil =>
    obtain rfl := runsAgenda_nil.mp hrun
    exact ⟨hagenda s [] hs, rfl⟩
  | cons e es ih =>
    obtain ⟨u, hu, hrest⟩ := runsAgenda_cons.mp hrun
    have hnext := hstep e (List.mem_cons_self ..) _ u (hagenda s es hs) hu
    exact ih hrest (fun e he => hstep e (List.mem_cons_of_mem _ he)) hnext

end Sys2Proof.Machine
end

section
/-! SUPPORT. What a PROC in flight ends in (20_memory.md R75): the state with each lane's remaining
samples filtered and pushed and the response sent. Each micro-step, in whatever order, leaves it as it
is. -/

namespace Sys2Proof.Machine

/-- The lane of a channel; one with nothing in it where the channel has none in flight. -/
def laneOf (s : State) (c : Chan) : Lane := (s.procRun.bind (·.lane? c)).getD ⟨[], [], []⟩

/-- The outputs of a channel that are not pushed yet, those of samples not yet filtered included. -/
def unpushed (s : State) (c : Chan) : List F32 :=
  (laneOf s c).pend ++ (runFrom s c (laneOf s c).todo).1

/-- The delay records the PROC in flight ends with. -/
def finalDly (s : State) (c : Chan) : Bank Delay := (runFrom s c (laneOf s c).todo).2

/-- The accumulator and queue the PROC in flight ends with. -/
def finalQueue (s : State) (c : Chan) : List F32 × List (List F32) := pushFrom s c (unpushed s c)

/-- The outputs of a channel the PROC in flight responds. -/
def finalOutputs (s : State) (c : Chan) : List F32 := (laneOf s c).done ++ unpushed s c

/-- The state the PROC in flight ends in. -/
def completed (s : State) : State :=
  respond .a (finalOutputs s .l ++ finalOutputs s .r) { s with
    dly := .ofFn (finalDly s)
    acc := .ofFn fun c => (finalQueue s c).1
    queue := .ofFn fun c => (finalQueue s c).2
    procRun := none }

/-- The state a PROC in flight ends in, with no agenda left. -/
def endsIn (s : State) : State := { completed s with sched := [] }

/-- t is s but for what the filter and push micro-steps of PROC write. -/
def OnlyProc (s t : State) : Prop :=
  t = { s with dly := t.dly, acc := t.acc, queue := t.queue, procRun := t.procRun }

/-- Two states that differ in what a PROC writes only, and end alike on every channel, end alike. -/
theorem completed_congr {s t : State} (hframe : OnlyProc s t)
    (hends : ∀ c, finalDly t c = finalDly s c ∧ finalQueue t c = finalQueue s c ∧
      finalOutputs t c = finalOutputs s c) : completed t = completed s := by
  have hdly : finalDly t = finalDly s := funext fun c => (hends c).1
  have hqueue : finalQueue t = finalQueue s := funext fun c => (hends c).2.1
  have hout : finalOutputs t = finalOutputs s := funext fun c => (hends c).2.2
  rw [completed, completed, hdly, hqueue, hout, hframe]

@[simp] theorem runFrom_nil (s : State) (c : Chan) : runFrom s c [] = ([], s.dly.get c) := rfl

@[simp] theorem pushFrom_nil (s : State) (c : Chan) :
    pushFrom s c [] = (s.acc.get c, s.queue.get c) := rfl

/-- A channel with nothing left to filter or push ends as it stands. -/
theorem final_of_finished {s : State} {c : Chan} (htodo : (laneOf s c).todo = [])
    (hpend : (laneOf s c).pend = []) :
    finalDly s c = s.dly.get c ∧ finalQueue s c = (s.acc.get c, s.queue.get c) ∧
      finalOutputs s c = (laneOf s c).done := by
  simp [finalDly, finalQueue, finalOutputs, unpushed, htodo, hpend]

theorem completed_of_finished {s : State}
    (h : ∀ c, (laneOf s c).todo = [] ∧ (laneOf s c).pend = []) :
    completed s =
      respond .a ((laneOf s .l).done ++ (laneOf s .r).done) { s with procRun := none } := by
  have hdly : finalDly s = s.dly.get := funext fun c => (final_of_finished (h c).1 (h c).2).1
  have hqueue : finalQueue s = fun c => (s.acc.get c, s.queue.get c) :=
    funext fun c => (final_of_finished (h c).1 (h c).2).2.1
  have hout : finalOutputs s = fun c => (laneOf s c).done :=
    funext fun c => (final_of_finished (h c).1 (h c).2).2.2
  rw [completed, hdly, hqueue, hout]
  rfl

/-- With no PROC in flight nothing is left to do. -/
theorem completed_of_none {s : State} (h : s.procRun = none) : completed s = s := by
  have hlane (c : Chan) : laneOf s c = ⟨[], [], []⟩ := by rw [laneOf, h]; rfl
  rw [completed_of_finished fun c => by rw [hlane]; exact ⟨rfl, rfl⟩, hlane, hlane, ← h]
  exact emit_nil .a false s

theorem ProcRun.lane?_setLane (run : ProcRun) (c : Chan) (ln : Lane) :
    (run.setLane c ln).lane? c = some ln := by
  cases c <;> rfl

theorem ProcRun.lane?_setLane_ne (run : ProcRun) {c d : Chan} (ln : Lane) (h : d ≠ c) :
    (run.setLane c ln).lane? d = run.lane? d := by
  cases c <;> cases d
  case l.l | r.r => exact absurd rfl h
  all_goals rfl

/-- The lanes after one of them is replaced. -/
theorem laneOf_setLane {s t : State} {run : ProcRun} {c : Chan} {ln : Lane}
    (hs : s.procRun = some run) (ht : t.procRun = some (run.setLane c ln)) :
    laneOf t c = ln ∧ ∀ d, d ≠ c → laneOf t d = laneOf s d := by
  refine ⟨?_, fun d hd => ?_⟩
  · rw [laneOf, ht, Option.bind_some, ProcRun.lane?_setLane, Option.getD_some]
  · rw [laneOf, laneOf, ht, hs, Option.bind_some, Option.bind_some, ProcRun.lane?_setLane_ne _ _ hd]

/-- A channel that has something in its lane has a PROC in flight. -/
theorem exists_run_of_laneOf {s : State} {c : Chan} (h : laneOf s c ≠ ⟨[], [], []⟩) :
    ∃ run, s.procRun = some run ∧ run.lane? c = some (laneOf s c) := by
  cases hrun : s.procRun with
  | none => exact absurd (by rw [laneOf, hrun]; rfl) h
  | some run =>
    cases hlane : run.lane? c with
    | none => exact absurd (by rw [laneOf, hrun, Option.bind_some, hlane]; rfl) h
    | some ln =>
      refine ⟨run, rfl, hlane.trans ?_⟩
      rw [laneOf, hrun, Option.bind_some, hlane, Option.getD_some]

/-- What a micro-step of PROC on channel c leaves: a PROC in flight, with this lane on c and the other
lane as it was. -/
structure LaneStep (c : Chan) (ln : Lane) (s t : State) : Prop where
  inFlight : ∃ run, t.procRun = some run
  lane : laneOf t c = ln
  other : ∀ d, d ≠ c → laneOf t d = laneOf s d

/-- A filter micro-step with a sample to filter (R75). -/
theorem filterMicro_of_cons {s : State} {c : Chan} {x : F32} {xs : List F32}
    (h : (laneOf s c).todo = x :: xs) :
    filterMicro c s =
        { (filterStep c x s).2 with procRun := (filterMicro c s).procRun } ∧
      LaneStep c ⟨xs, (laneOf s c).pend ++ [(filterStep c x s).1], (laneOf s c).done⟩ s
        (filterMicro c s) := by
  obtain ⟨run, hrun, hlane⟩ := exists_run_of_laneOf (s := s) (c := c) fun he => by simp [he] at h
  have he : filterMicro c s = { (filterStep c x s).2 with procRun := some (run.setLane c
      { laneOf s c with todo := xs, pend := (laneOf s c).pend ++ [(filterStep c x s).1] }) } := by
    simp only [filterMicro, hrun, hlane, h]
  rw [he]
  obtain ⟨hsame, hother⟩ := laneOf_setLane (t := { (filterStep c x s).2 with procRun := _ }) hrun rfl
  exact ⟨rfl, ⟨_, rfl⟩, hsame, hother⟩

/-- A filter micro-step with no sample to filter does nothing (R75). -/
theorem filterMicro_of_nil {s : State} {c : Chan} (h : (laneOf s c).todo = []) :
    filterMicro c s = s := by
  cases hrun : s.procRun with
  | none => simp only [filterMicro, hrun]
  | some run =>
    cases hlane : run.lane? c with
    | none => simp only [filterMicro, hrun, hlane]
    | some ln =>
      have hln : laneOf s c = ln := by rw [laneOf, hrun, Option.bind_some, hlane, Option.getD_some]
      simp only [filterMicro, hrun, hlane, hln ▸ h]

/-- A push micro-step with an output to push (R75). -/
theorem pushMicro_of_cons {s : State} {c : Chan} {y : F32} {ys : List F32}
    (h : (laneOf s c).pend = y :: ys) :
    pushMicro c s = { qPush c y s with procRun := (pushMicro c s).procRun } ∧
      LaneStep c ⟨(laneOf s c).todo, ys, (laneOf s c).done ++ [y]⟩ s (pushMicro c s) := by
  obtain ⟨run, hrun, hlane⟩ := exists_run_of_laneOf (s := s) (c := c) fun he => by simp [he] at h
  have he : pushMicro c s = { qPush c y s with procRun := some (run.setLane c
      { laneOf s c with pend := ys, done := (laneOf s c).done ++ [y] }) } := by
    simp only [pushMicro, hrun, hlane, h]
  rw [he]
  obtain ⟨hsame, hother⟩ := laneOf_setLane (t := { qPush c y s with procRun := _ }) hrun rfl
  exact ⟨rfl, ⟨_, rfl⟩, hsame, hother⟩

/-- A push micro-step with no output to push does nothing (R75). -/
theorem pushMicro_of_nil {s : State} {c : Chan} (h : (laneOf s c).pend = []) :
    pushMicro c s = s := by
  cases hrun : s.procRun with
  | none => simp only [pushMicro, hrun]
  | some run =>
    cases hlane : run.lane? c with
    | none => simp only [pushMicro, hrun, hlane]
    | some ln =>
      have hln : laneOf s c = ln := by rw [laneOf, hrun, Option.bind_some, hlane, Option.getD_some]
      simp only [pushMicro, hrun, hlane, hln ▸ h]

/-- A channel the micro-step was not on ends as it would have. -/
theorem final_of_other {s t : State} {d : Chan} (hframe : OnlyProc s t)
    (hlane : laneOf t d = laneOf s d) (hdly : t.dly.get d = s.dly.get d)
    (hacc : t.acc.get d = s.acc.get d) (hqueue : t.queue.get d = s.queue.get d) :
    finalDly t d = finalDly s d ∧ finalQueue t d = finalQueue s d ∧
      finalOutputs t d = finalOutputs s d := by
  have hcfg : t.cfg = s.cfg := by rw [hframe]
  have hsettings : t.settings = s.settings := by rw [hframe]; rfl
  have hmaxblk : t.maxblk = s.maxblk := by rw [hframe]
  simp only [finalDly, finalQueue, finalOutputs, unpushed, runFrom, pushFrom, State.num, hlane, hcfg,
    hsettings, hmaxblk, hdly, hacc, hqueue, and_self]

/-- A filter micro-step leaves what the PROC in flight ends in (R75). -/
theorem completed_filterMicro (c : Chan) (s : State) : completed (filterMicro c s) = completed s := by
  cases htodo : (laneOf s c).todo with
  | nil => rw [filterMicro_of_nil htodo]
  | cons x xs =>
    obtain ⟨hstep, _, hsame, hother⟩ := filterMicro_of_cons htodo
    have hframe : OnlyProc s (filterMicro c s) := by
      rw [hstep]
      rfl
    have hdly : (filterMicro c s).dly =
        s.dly.set c (chainStep s.num s.settings (s.dly.get c) x).2 := by
      rw [hstep]
      rfl
    have hacc : (filterMicro c s).acc = s.acc := by rw [hstep]; rfl
    have hqueue : (filterMicro c s).queue = s.queue := by rw [hstep]; rfl
    refine completed_congr hframe fun d => ?_
    by_cases hd : d = c
    · subst hd
      have hrun : runFrom s d (laneOf s d).todo =
          ((filterStep d x s).1 :: (runFrom (filterMicro d s) d xs).1,
            (runFrom (filterMicro d s) d xs).2) := by
        have hnum : (filterMicro d s).num = s.num := by rw [hframe]; rfl
        have hsettings : (filterMicro d s).settings = s.settings := by rw [hframe]; rfl
        simp only [runFrom, htodo, hnum, hsettings, hdly, Chans.get_set_same]
        rfl
      have hunpushed : unpushed (filterMicro d s) d = unpushed s d := by
        simp [unpushed, hsame, hrun]
      refine ⟨by simp only [finalDly, hsame, hrun], ?_, by
        simp only [finalOutputs, hunpushed, hsame]⟩
      rw [finalQueue, hunpushed, hstep]
      rfl
    · exact final_of_other hframe (hother d hd) (hdly ▸ Chans.get_set_ne _ _ hd)
        (congrArg (Chans.get · d) hacc) (congrArg (Chans.get · d) hqueue)

/-- So does a push micro-step. -/
theorem completed_pushMicro (c : Chan) (s : State) : completed (pushMicro c s) = completed s := by
  cases hpend : (laneOf s c).pend with
  | nil => rw [pushMicro_of_nil hpend]
  | cons y ys =>
    obtain ⟨hstep, _, hsame, hother⟩ := pushMicro_of_cons hpend
    have hframe : OnlyProc s (pushMicro c s) := by
      rw [hstep]
      rfl
    refine completed_congr hframe fun d => ?_
    by_cases hd : d = c
    · subst hd
      have hrun (xs : List F32) : runFrom (pushMicro d s) d xs = runFrom s d xs := by
        rw [hstep]
        rfl
      have hunpushed : unpushed s d = y :: unpushed (pushMicro d s) d := by
        simp [unpushed, hpend, hsame, hrun]
      have hpush (zs : List F32) : pushFrom (pushMicro d s) d zs = pushFrom (qPush d y s) d zs := by
        rw [hstep]
        rfl
      refine ⟨by simp only [finalDly, hsame, hrun], ?_, by
        simp [finalOutputs, hunpushed, hsame]⟩
      rw [finalQueue, finalQueue, hunpushed, hpush]
      exact (pushRun_cons d y _ s).symm
    · obtain ⟨hacc, hqueue⟩ := qPush_other c d y s hd
      refine final_of_other hframe (hother d hd) ?_ ?_ ?_ <;> rw [hstep]
      · rfl
      · exact hacc
      · exact hqueue

theorem Lane.finished_iff (ln : Lane) : ln.finished = true ↔ ln.todo = [] ∧ ln.pend = [] := by
  simp [Lane.finished]

/-- A run is finished when every lane is (R75). -/
theorem ProcRun.finished_iff {s : State} {run : ProcRun} (hrun : s.procRun = some run) :
    run.finished = true ↔ ∀ c, (laneOf s c).todo = [] ∧ (laneOf s c).pend = [] := by
  have hl : laneOf s .l = run.l := by rw [laneOf, hrun]; rfl
  have hr : laneOf s .r = run.r.getD ⟨[], [], []⟩ := by rw [laneOf, hrun]; rfl
  have hchans {P : Chan → Prop} : (∀ c, P c) ↔ P .l ∧ P .r :=
    ⟨fun h => ⟨h .l, h .r⟩, fun h c => by cases c; exacts [h.1, h.2]⟩
  rw [hchans, hl, hr, ProcRun.finished, Bool.and_eq_true, Lane.finished_iff]
  cases run.r with
  | none => simp
  | some ln => simp [Lane.finished_iff]

theorem ProcRun.outputs_eq {s : State} {run : ProcRun} (hrun : s.procRun = some run) :
    run.outputs = (laneOf s .l).done ++ (laneOf s .r).done := by
  have hl : laneOf s .l = run.l := by rw [laneOf, hrun]; rfl
  have hr : laneOf s .r = run.r.getD ⟨[], [], []⟩ := by rw [laneOf, hrun]; rfl
  rw [hl, hr, ProcRun.outputs]
  cases run.r <;> rfl

/-- The response micro-step of a finished PROC completes it (R75). -/
theorem respondMicro_of_finished {s : State} {run : ProcRun} (hrun : s.procRun = some run)
    (hfin : run.finished = true) : respondMicro s = completed s := by
  have hends := (ProcRun.finished_iff hrun).mp hfin
  rw [completed_of_finished hends, ← ProcRun.outputs_eq hrun]
  simp only [respondMicro, hrun, hfin, if_true]

/-- And so does the response micro-step. -/
theorem completed_respondMicro (s : State) : completed (respondMicro s) = completed s := by
  cases hrun : s.procRun with
  | none => simp only [respondMicro, hrun]
  | some run =>
    by_cases hfin : run.finished = true
    · rw [respondMicro_of_finished hrun hfin]
      exact completed_of_none rfl
    · simp only [respondMicro, hrun, if_neg hfin]

/-- No micro-step of a PROC changes what it ends in (R75). -/
theorem completed_of_isProcStep {e : Event} (he : e.isProcStep = true) {s t : State}
    (h : runEvent e s = .next t) : completed t = completed s := by
  cases e <;> cases he <;> cases h
  case filter c => exact completed_filterMicro c s
  case push c => exact completed_pushMicro c s
  case respond => exact completed_respondMicro s

/-- The lanes of a PROC that has just been started (R160). -/
theorem laneOf_start (nch : ChanCount) (n : Nat) (payload : List F32) (s : State) (c : Chan) :
    laneOf { s with procRun := some (.start nch n payload) } c =
      if c ∈ nch.chans then Lane.start (planar n payload c) else ⟨[], [], []⟩ := by
  cases nch <;> cases c <;> rfl

/-- A PROC that has just been started ends in the state the whole command gives (R160). -/
theorem completed_start (nch : ChanCount) (n : Nat) (payload : List F32) (s : State) :
    completed { s with procRun := some (.start nch n payload) } =
      respond .a (nch.chans.flatMap fun c => (runFrom s c (planar n payload c)).1)
        { blockDone nch (planar n payload) s with procRun := none } := by
  have hdly : finalDly { s with procRun := some (.start nch n payload) } =
      blockDly nch (planar n payload) s := by
    funext c
    rw [finalDly, laneOf_start, blockDly]
    split <;> rfl
  have hqueue : finalQueue { s with procRun := some (.start nch n payload) } =
      blockQueue nch (planar n payload) s := by
    funext c
    rw [finalQueue, unpushed, laneOf_start, blockQueue]
    split <;> rfl
  have hout (c : Chan) : finalOutputs { s with procRun := some (.start nch n payload) } c =
      if c ∈ nch.chans then (runFrom s c (planar n payload c)).1 else [] := by
    rw [finalOutputs, unpushed, laneOf_start]
    split <;> rfl
  have houts : finalOutputs { s with procRun := some (.start nch n payload) } .l ++
      finalOutputs { s with procRun := some (.start nch n payload) } .r =
        nch.chans.flatMap fun c => (runFrom s c (planar n payload c)).1 := by
    rw [hout, hout]
    cases nch <;> simp [ChanCount.chans]
  rw [completed, houts, hdly, hqueue]
  rfl

end Sys2Proof.Machine
end

section
/-! SUPPORT. What port A sees of a PROC in flight, and that nothing of port V changes it (20_memory.md
R74, R75). -/

namespace Sys2Proof.Machine

/-- s and t agree in what a PROC in flight reads, but for the queues, and in port A's streams. -/
structure SameAudio (s t : State) : Prop where
  cfg : t.cfg = s.cfg
  coef : t.coef = s.coef
  dly : t.dly = s.dly
  pbyp : t.pbyp = s.pbyp
  sbyp : t.sbyp = s.sbyp
  maxblk : t.maxblk = s.maxblk
  acc : t.acc = s.acc
  io : t.io.a = s.io.a
  procRun : t.procRun = s.procRun

theorem SameAudio.refl (s : State) : SameAudio s s := ⟨rfl, rfl, rfl, rfl, rfl, rfl, rfl, rfl, rfl⟩

theorem SameAudio.trans {s t u : State} (hst : SameAudio s t) (htu : SameAudio t u) :
    SameAudio s u :=
  ⟨htu.cfg.trans hst.cfg, htu.coef.trans hst.coef, htu.dly.trans hst.dly, htu.pbyp.trans hst.pbyp,
    htu.sbyp.trans hst.sbyp, htu.maxblk.trans hst.maxblk, htu.acc.trans hst.acc, htu.io.trans hst.io,
    htu.procRun.trans hst.procRun⟩

/-- No command of port V changes what a PROC in flight reads. -/
theorem exec_sameAudio {i : Instr} (hi : i.port = .v) {s t : State} (h : exec i s = .next t) :
    SameAudio s t := by
  obtain ⟨hcfg, _, hproc, _⟩ := exec_machinery h
  obtain ⟨hcoef, hdly, hpbyp, hsbyp, _, _, _, hmaxblk, hacc, _, hio⟩ := exec_portV hi h
  exact ⟨hcfg, hcoef, hdly, hpbyp, hsbyp, hmaxblk, hacc, hio, hproc⟩

theorem beginCommand_sameAudio {i : Instr} (hi : i.port = .v) {s t : State}
    (h : beginCommand i s = .next t) : SameAudio s t := by
  rcases beginCommand_frame h with he | ⟨ha, _⟩ | ⟨_, hframe⟩
  · exact exec_sameAudio hi he
  · cases hi.symm.trans ha
  · rw [hframe]
    constructor <;> rfl

theorem fetch_sameAudio {packet : List Word} {s t : State} (h : fetch .v s = some (packet, t)) :
    SameAudio s t := by
  obtain ⟨_, _, hr⟩ := Option.map_eq_some_iff.mp h
  cases hr
  constructor <;> rfl

/-- Serving port V changes nothing a PROC in flight reads: what it decodes belongs to port V
(`decode_eq_ok_iff`). -/
theorem serve_sameAudio {run : Instr → State → Out State}
    (hrun : ∀ {i : Instr}, i.port = .v → ∀ {s t : State}, run i s = .next t → SameAudio s t)
    {s t : State} (h : serve run .v s = .next t) : SameAudio s t := by
  rcases serve_cases run .v s with
    he | ⟨packet, u, i, _, hfetch, hok, he⟩ | ⟨packet, u, k, _, hfetch, _, he⟩
  · cases he.symm.trans h
    exact .refl s
  · obtain ⟨_, hi, _⟩ := decode_eq_ok_iff.mp hok
    exact (fetch_sameAudio hfetch).trans (hrun hi (he.symm.trans h))
  · cases he.symm.trans h
    obtain ⟨hcfg, hcoef, hdly, hpbyp, hsbyp, hmaxblk, hacc, hio, hproc⟩ := fetch_sameAudio hfetch
    exact ⟨hcfg, hcoef, hdly, hpbyp, hsbyp, hmaxblk, hacc, hio, hproc⟩

/-- Every event beside port A but a micro-step of the PROC itself leaves what that PROC reads. -/
theorem runEvent_sameAudio {e : Event} (hbeside : e.besidePortA = true)
    (hproc : e.isProcStep = false) {s t : State} (h : runEvent e s = .next t) : SameAudio s t := by
  have hframe := runEvent_frame h
  cases e
  case command p =>
    obtain rfl : p = .v := beq_iff_eq.mp hbeside
    exact serve_sameAudio exec_sameAudio h
  case start p =>
    obtain rfl : p = .v := beq_iff_eq.mp hbeside
    exact serve_sameAudio beginCommand_sameAudio h
  case accept p =>
    obtain rfl : p = .v := beq_iff_eq.mp hbeside
    rw [hframe]
    constructor <;> rfl
  case take p =>
    obtain rfl : p = .v := beq_iff_eq.mp hbeside
    rw [hframe]
    constructor <;> rfl
  case paramChanged =>
    rw [hframe]
    constructor <;> rfl
  case tick =>
    cases h
    rw [tickMicro_frame]
    constructor <;> rfl
  case reset => cases hbeside
  case filter | push | respond => cases hproc

/-- Port A's streams, the delay records, the accumulators and the settings of a state. -/
def audioView (s : State) : PortIO × Chans (Bank Delay) × Chans (List F32) × Settings :=
  (s.io.a, s.dly, s.acc, s.settings)

/-- What port A sees of the state a PROC in flight ends in depends on what the PROC reads, but not on
the queues. -/
theorem SameAudio.audioView_completed {s t : State} (h : SameAudio s t) :
    audioView (completed t) = audioView (completed s) := by
  have hlane (c : Chan) : laneOf t c = laneOf s c := by rw [laneOf, laneOf, h.procRun]
  have hsettings : t.settings = s.settings := by
    rw [State.settings, State.settings, h.coef, h.pbyp, h.sbyp]
  have hrun (c : Chan) (xs : List F32) : runFrom t c xs = runFrom s c xs := by
    rw [runFrom, runFrom, hsettings, State.num, State.num, h.cfg, h.dly]
  have hunpushed (c : Chan) : unpushed t c = unpushed s c := by
    rw [unpushed, unpushed, hlane, hrun]
  have hdly : finalDly t = finalDly s := by
    funext c
    rw [finalDly, finalDly, hlane, hrun]
  have hout : finalOutputs t = finalOutputs s := by
    funext c
    rw [finalOutputs, finalOutputs, hlane, hunpushed]
  have hacc (c : Chan) : (finalQueue t c).1 = (finalQueue s c).1 := by
    rw [finalQueue, finalQueue, hunpushed, pushFrom, pushFrom, h.maxblk, h.acc]
    exact pushRun_acc ..
  have hio : (completed t).io.a = (completed s).io.a := by
    simp only [completed, respond, emit_io, Ports.set, Ports.get, hout, h.io]
  have haccs : (completed t).acc = (completed s).acc := congrArg Chans.ofFn (funext hacc)
  have hdlys : (completed t).dly = (completed s).dly := congrArg Chans.ofFn hdly
  have hsets : (completed t).settings = (completed s).settings := hsettings
  rw [audioView, audioView, hio, haccs, hdlys, hsets]

end Sys2Proof.Machine
end

section
/-! SUPPORT. How many micro-steps a PROC in flight still makes (20_memory.md R75), and the default
order, which makes them all (log 8). -/

namespace Sys2Proof.Machine

/-- A filter and a push for each sample not filtered, a push for each output not pushed. -/
def Lane.work (ln : Lane) : Nat := 2 * ln.todo.length + ln.pend.length

/-- The micro-steps of the PROC in flight before its response. -/
def procWork (s : State) : Nat := (laneOf s .l).work + (laneOf s .r).work

theorem LaneStep.procWork_lt {c : Chan} {ln : Lane} {s t : State} (h : LaneStep c ln s t)
    (hwork : ln.work + 1 = (laneOf s c).work) : procWork t + 1 = procWork s := by
  have hsame := h.lane
  cases c with
  | l =>
    have hother := h.other .r nofun
    rw [procWork, procWork, hsame, hother]
    omega
  | r =>
    have hother := h.other .l nofun
    rw [procWork, procWork, hsame, hother]
    omega

/-- A lane that is not finished goes on with a push where an output waits, else with a filter step
(R160). -/
theorem Lane.nextEvent_eq (c : Chan) (ln : Lane) :
    (ln.finished = true ∧ ln.nextEvent c = none) ∨
    (ln.pend ≠ [] ∧ ln.nextEvent c = some (.push c)) ∨
    (ln.todo ≠ [] ∧ ln.nextEvent c = some (.filter c)) := by
  unfold Lane.nextEvent Lane.finished
  cases ln.pend <;> cases ln.todo <;> simp

/-- The next micro-step of a PROC in flight finds its sample, its output or the PROC finished (R160). -/
theorem ProcRun.nextEvent_eq {s : State} {run : ProcRun} (hrun : s.procRun = some run) :
    (∃ c, (laneOf s c).pend ≠ [] ∧ run.nextEvent = .push c) ∨
    (∃ c, (laneOf s c).todo ≠ [] ∧ run.nextEvent = .filter c) ∨
    (run.finished = true ∧ run.nextEvent = .respond) := by
  have hl : laneOf s .l = run.l := by rw [laneOf, hrun]; rfl
  have hr : laneOf s .r = run.r.getD ⟨[], [], []⟩ := by rw [laneOf, hrun]; rfl
  rcases run.l.nextEvent_eq .l with ⟨hfin, hnext⟩ | ⟨hpend, hnext⟩ | ⟨htodo, hnext⟩
  · cases hright : run.r with
    | none =>
      exact .inr (.inr ⟨by simp [ProcRun.finished, hfin, hright], by
        simp [ProcRun.nextEvent, hnext, hright]⟩)
    | some ln =>
      rw [hright, Option.getD_some] at hr
      rcases ln.nextEvent_eq .r with ⟨hfinR, hnextR⟩ | ⟨hpend, hnextR⟩ | ⟨htodo, hnextR⟩
      · exact .inr (.inr ⟨by simp [ProcRun.finished, hfin, hright, hfinR], by
          simp [ProcRun.nextEvent, hnext, hright, hnextR]⟩)
      · exact .inl ⟨.r, hr ▸ hpend, by simp [ProcRun.nextEvent, hnext, hright, hnextR]⟩
      · exact .inr (.inl ⟨.r, hr ▸ htodo, by simp [ProcRun.nextEvent, hnext, hright, hnextR]⟩)
  · exact .inl ⟨.l, hl ▸ hpend, by simp [ProcRun.nextEvent, hnext]⟩
  · exact .inr (.inl ⟨.l, hl ▸ htodo, by simp [ProcRun.nextEvent, hnext]⟩)

/-- With an empty agenda a PROC in flight goes on (log 8). -/
theorem step_of_procRun {s : State} {run : ProcRun} (hsched : s.sched = [])
    (hrun : s.procRun = some run) : step s = runEvent run.nextEvent s := by
  have hnext : nextEvent s = some (run.nextEvent, []) := by
    simp only [nextEvent, hsched, defaultEvent, hrun, Option.map_some]
  have hself : { s with sched := [] } = s := by rw [← hsched]
  rw [step_of_nextEvent hnext, hself]

/-- A default step of a PROC in flight completes it, or is one of its micro-steps. -/
theorem step_procRun_cases {s : State} {run : ProcRun} (hsched : s.sched = [])
    (hrun : s.procRun = some run) :
    (procWork s = 0 ∧ step s = .next (completed s)) ∨
    ∃ t, step s = .next t ∧ completed t = completed s ∧ procWork t + 1 = procWork s ∧
      t.sched = [] ∧ ∃ run, t.procRun = some run := by
  rw [step_of_procRun hsched hrun]
  rcases ProcRun.nextEvent_eq hrun with ⟨c, hpend, he⟩ | ⟨c, htodo, he⟩ | ⟨hfin, he⟩ <;> rw [he]
  · obtain ⟨y, ys, hcons⟩ := List.exists_cons_of_ne_nil hpend
    obtain ⟨hstep, hlane⟩ := pushMicro_of_cons hcons
    refine .inr ⟨_, rfl, completed_pushMicro c s, hlane.procWork_lt ?_, ?_, hlane.inFlight⟩
    · simp [Lane.work, hcons]
      omega
    · rw [hstep]
      exact hsched
  · obtain ⟨x, xs, hcons⟩ := List.exists_cons_of_ne_nil htodo
    obtain ⟨hstep, hlane⟩ := filterMicro_of_cons hcons
    refine .inr ⟨_, rfl, completed_filterMicro c s, hlane.procWork_lt ?_, ?_, hlane.inFlight⟩
    · simp [Lane.work, hcons]
      omega
    · rw [hstep]
      exact hsched
  · refine .inl ⟨?_, congrArg _ (respondMicro_of_finished hrun hfin)⟩
    have hends := (ProcRun.finished_iff hrun).mp hfin
    have hwork (c : Chan) : (laneOf s c).work = 0 := by
      obtain ⟨htodo, hpend⟩ := hends c
      rw [Lane.work, htodo, hpend]
      rfl
    rw [procWork, hwork, hwork]

/-- With an empty agenda a PROC in flight is done after its micro-steps and the response (R75). -/
theorem runs_completed {s : State} {run : ProcRun} (hsched : s.sched = [])
    (hrun : s.procRun = some run) : Runs (procWork s + 1) s (completed s) := by
  induction hk : procWork s generalizing s run with
  | zero =>
    rcases step_procRun_cases hsched hrun with ⟨_, hstep⟩ | ⟨_, _, _, hwork, _⟩
    · exact runs_succ.mpr ⟨_, hstep, rfl⟩
    · omega
  | succ k ih =>
    rcases step_procRun_cases hsched hrun with ⟨hzero, _⟩ | ⟨t, hstep, hends, hwork, ht, run', hrun'⟩
    · omega
    · exact runs_succ.mpr ⟨t, hstep, hends ▸ ih ht hrun' (by omega)⟩

/-- Two micro-steps for each sample of the block (R75). -/
theorem procWork_start {nch : ChanCount} {n : Nat} {payload : List F32}
    (hlen : payload.length = n * nch.toNat) (s : State) :
    procWork { s with procRun := some (.start nch n payload) } = 2 * (n * nch.toNat) := by
  rw [procWork, laneOf_start, laneOf_start]
  cases nch <;>
    simp [ChanCount.chans, Lane.start, Lane.work, planar, hlen, ChanCount.toNat]
  omega

end Sys2Proof.Machine
end

section
/-! The obligations about a PROC in flight (20_memory.md R74, R75). -/

open Sys2Proof Sys2Proof.Machine

/-- Settles O40: no micro-step changes the state the PROC ends in (`completed_of_isProcStep`), which at
its start is the one the whole command gives and once it has responded the one it is in. -/
theorem procOrderIndependent : Obligations.ProcOrderIndependent := by
  intro nch n payload s t es hlen hprep hn hes hrun hdone
  obtain ⟨hends, hsched⟩ := hrun.keeps
    (P := fun u => endsIn u = endsIn { s with procRun := some (.start nch n.toNat payload) })
    (fun u sched hu => hu)
    (fun e he u v hu hv => by rw [endsIn, completed_of_isProcStep (hes e he) hv, ← endsIn, hu]) rfl
  have hself : { t with sched := [] } = t := by rw [← hsched]
  rw [endsIn, endsIn, completed_of_none hdone, completed_start, hself] at hends
  exact (exec_proc_eq (s := { s with procRun := none, sched := [] }) hlen hprep hn).trans
    (congrArg _ hends.symm)

/-- Settles O41: no event beside port A changes what port A sees of the state the PROC ends in: not its
own micro-steps, nor anything of port V (`runEvent_sameAudio`). -/
theorem portVCannotChangeProc : Obligations.PortVCannotChangeProc := by
  intro nch n payload s t u es hlen hprep hn hes hrun hdone hexec
  obtain ⟨hview, _⟩ := hrun.keeps
    (P := fun v => audioView (completed v) =
      audioView (completed { s with procRun := some (.start nch n.toNat payload) }))
    (fun v sched hv => hv)
    (fun e he v w hv hw => by
      cases hstep : e.isProcStep with
      | true => rw [completed_of_isProcStep hstep hw, hv]
      | false => rw [(runEvent_sameAudio (hes e he) hstep hw).audioView_completed, hv]) rfl
  cases (exec_proc_eq hlen hprep hn).symm.trans hexec
  rw [completed_of_none hdone, completed_start] at hview
  simp only [audioView, Prod.mk.injEq] at hview
  exact hview

/-- Settles O42: the default order makes every micro-step the PROC has left (`runs_completed`), two for
each sample at its start. -/
theorem procInFlightFinishes : Obligations.ProcInFlightFinishes := by
  intro nch n payload s hlen hprep hn
  have hcheck := procCheck_eq_none_of_prepared hprep hn
  refine ⟨if_pos ⟨hlen, hcheck⟩, _,
    exec_proc_eq (s := { s with procRun := none, sched := [] }) hlen hprep hn, ?_⟩
  have hruns := runs_completed
    (s := { s with procRun := some (.start nch n.toNat payload), sched := [] }) rfl rfl
  rw [procWork_start hlen { s with sched := [] }, completed_start _ _ _ { s with sched := [] }] at hruns
  exact hruns

end

section
/-! SUPPORT. What a TICK in flight ends in (45_analyzer.md R240): the rest of its channel, and the right
channel after the left. Each micro-step leaves it as it is. -/

namespace Sys2Proof.Machine

/-- s with no TICK in flight and nothing on the agenda. -/
def atRest (s : State) : State := { s with tickRun := none, sched := [] }

theorem atRest_eq_self {s : State} (htick : s.tickRun = none) (hsched : s.sched = []) :
    atRest s = s := by
  rw [atRest, ← htick, ← hsched]

theorem pullStep_atRest (c : Chan) (s : State) :
    pullStep c (atRest s) = (pullStep c s).map atRest := by
  cases hq : s.queue.get c with
  | nil =>
    have hq' : (atRest s).queue.get c = [] := hq
    rw [pullStep_eq_none.mpr hq, pullStep_eq_none.mpr hq']
    rfl
  | cons blk rest =>
    have hq' : (atRest s).queue.get c = blk :: rest := hq
    rw [pullStep_of_cons hq, pullStep_of_cons hq']
    rfl

theorem pathStep_atRest (c : Chan) (b : Bounds) (s : State) :
    pathStep c b (atRest s) = atRest (pathStep c b s) := by
  cases hlast : (s.fq.get c).getLast? with
  | none =>
    have hempty := List.getLast?_eq_none_iff.mp hlast
    rw [pathStep_of_empty hempty]
    exact pathStep_of_empty hempty
  | some frame =>
    rw [pathStep_of_last hlast]
    exact pathStep_of_last hlast

/-- The channel of a TICK brought to its end: the pulls still to make, with an FFT after each, and the
path. -/
def finishChannel (run : TickRun) (s : State) : State :=
  pathStep run.ch run.bounds
    (match run.phase with
      | .pull => tickPulls run.ch (run.left - 1 + 1) s
      | .fft => tickPulls run.ch run.left (fftStep run.ch s)
      | .path => s)

/-- A TICK brought to its end: its channel, and after the left one the right one. -/
def finishTick (run : TickRun) (s : State) : State :=
  match run.ch with
  | .l => tickChannel .r run.bounds (finishChannel run s)
  | .r => finishChannel run s

/-- The state the TICK in flight ends in, with no agenda left. -/
def tickEnd (s : State) : State :=
  match s.tickRun with
  | none => atRest s
  | some run => finishTick run (atRest s)

theorem tickEnd_of_none {s : State} (h : s.tickRun = none) : tickEnd s = atRest s := by
  simp only [tickEnd, h]

theorem tickEnd_of_some {s : State} {run : TickRun} (h : s.tickRun = some run) :
    tickEnd s = finishTick run (atRest s) := by
  simp only [tickEnd, h]

/-- The end of a TICK depends on where it is through the end of its channel only. -/
theorem finishTick_congr {run run' : TickRun} {s s' : State} (hch : run'.ch = run.ch)
    (hbounds : run'.bounds = run.bounds) (h : finishChannel run' s' = finishChannel run s) :
    finishTick run' s' = finishTick run s := by
  rw [finishTick, finishTick, hch, hbounds, h]

/-- With `left` pulls to make a channel goes on to its end (R240). -/
theorem finishChannel_next (b : Bounds) (c : Chan) (left : Nat) (s : State) :
    finishChannel ⟨b, c, left, .next left⟩ s = pathStep c b (tickPulls c left s) := by
  cases left <;> rfl

/-- A pull with nothing to pull ends the pulls of the channel (R240). -/
theorem finishChannel_pull_none {run : TickRun} {s : State} (hphase : run.phase = .pull)
    (hpull : pullStep run.ch s = none) :
    finishChannel { run with phase := .path } s = finishChannel run s := by
  simp only [finishChannel, hphase, tickPulls, hpull]

/-- A pull that finds a block is followed by its FFT (R240). -/
theorem finishChannel_pull_some {run : TickRun} {s t : State} (hphase : run.phase = .pull)
    (hpull : pullStep run.ch s = some t) :
    finishChannel { run with left := run.left - 1, phase := .fft } t = finishChannel run s := by
  simp only [finishChannel, hphase, tickPulls, hpull]

/-- An FFT is followed by the pulls left (R240). -/
theorem finishChannel_fft {run : TickRun} {s : State} (hphase : run.phase = .fft) :
    finishChannel { run with phase := .next run.left } (fftStep run.ch s) = finishChannel run s := by
  rw [finishChannel_next]
  simp only [finishChannel, hphase]

/-- No micro-step of a TICK changes what it ends in (R240). -/
theorem tickEnd_tickMicro (s : State) : tickEnd (tickMicro s) = tickEnd s := by
  cases hrun : s.tickRun with
  | none => simp only [tickMicro, hrun]
  | some run =>
    rw [tickEnd_of_some hrun]
    cases hphase : run.phase with
    | pull =>
      cases hpull : pullStep run.ch s with
      | none =>
        have hpull' : pullStep run.ch (atRest s) = none := by
          rw [pullStep_atRest, hpull]
          rfl
        have he : tickMicro s = { s with tickRun := some { run with phase := .path } } := by
          simp only [tickMicro, hrun, hphase, hpull]
        rw [he, tickEnd_of_some rfl]
        exact finishTick_congr rfl rfl (finishChannel_pull_none hphase hpull')
      | some t =>
        have hpull' : pullStep run.ch (atRest s) = some (atRest t) := by
          rw [pullStep_atRest, hpull]
          rfl
        have he : tickMicro s =
            { t with tickRun := some { run with left := run.left - 1, phase := .fft } } := by
          simp only [tickMicro, hrun, hphase, hpull]
        rw [he, tickEnd_of_some rfl]
        exact finishTick_congr rfl rfl (finishChannel_pull_some hphase hpull')
    | fft =>
      have he : tickMicro s =
          { fftStep run.ch s with tickRun := some { run with phase := .next run.left } } := by
        simp only [tickMicro, hrun, hphase]
      rw [he, tickEnd_of_some rfl]
      exact finishTick_congr rfl rfl (finishChannel_fft (s := atRest s) hphase)
    | path =>
      have hend : finishChannel run (atRest s) =
          atRest (pathStep run.ch run.bounds s) := by
        rw [← pathStep_atRest]
        simp only [finishChannel, hphase]
      have hcfg : (pathStep run.ch run.bounds s).cfg = s.cfg := by rw [pathStep_frame]
      cases hch : run.ch with
      | l =>
        have he : tickMicro s = { pathStep .l run.bounds s with
            tickRun := some (.start run.bounds .r s.cfg.qcap) } := by
          simp only [tickMicro, hrun, hphase, hch]
        rw [hch] at hend hcfg
        rw [he, tickEnd_of_some rfl]
        simp only [finishTick, hch, hend, TickRun.start, finishChannel_next, tickChannel, ← hcfg]
        rfl
      | r =>
        have he : tickMicro s = { pathStep .r run.bounds s with tickRun := none } := by
          simp only [tickMicro, hrun, hphase, hch]
        rw [hch] at hend
        rw [he, tickEnd_of_none rfl]
        simp only [finishTick, hch, hend]
        rfl

/-- A TICK that has just been started ends in the state the whole command gives (R240). -/
theorem tickEnd_start (b : Bounds) (s : State) :
    tickEnd { s with tickRun := some (.start b .l s.cfg.qcap) } =
      tickChannel .r b (tickChannel .l b (atRest s)) := by
  rw [tickEnd_of_some rfl]
  simp only [finishTick, TickRun.start, finishChannel_next]
  rfl

end Sys2Proof.Machine
end

section
/-! SUPPORT. How many micro-steps a TICK in flight can still make (45_analyzer.md R240). -/

namespace Sys2Proof.Machine

/-- The micro-steps left on the channel a TICK is at: a pull and an FFT for each pull to make, the
pull that finds nothing or the last FFT, and the path. -/
def channelWork (run : TickRun) : Nat :=
  match run.phase with
  | .pull => 2 * (run.left - 1 + 1) + 1
  | .fft => 2 * run.left + 2
  | .path => 1

/-- The micro-steps on the channels after this one. -/
def laterWork (qcap : Nat) : Chan → Nat
  | .l => 2 * qcap + 1
  | .r => 0

/-- The micro-steps a TICK can still make: those of its channel, and after the left one those of the
right one. -/
def tickWork (s : State) : Nat :=
  match s.tickRun with
  | none => 0
  | some run => channelWork run + laterWork s.cfg.qcap run.ch

theorem channelWork_next (b : Bounds) (c : Chan) (left : Nat) :
    channelWork ⟨b, c, left, .next left⟩ = 2 * left + 1 := by
  cases left <;> rfl

theorem channelWork_pos (run : TickRun) : 0 < channelWork run := by
  unfold channelWork
  split <;> omega

theorem tickWork_of_some {s : State} {run : TickRun} (h : s.tickRun = some run) :
    tickWork s = channelWork run + laterWork s.cfg.qcap run.ch := by
  simp only [tickWork, h]

theorem tickWork_of_none {s : State} (h : s.tickRun = none) : tickWork s = 0 := by
  simp only [tickWork, h]

theorem tickRun_eq_none_of_tickWork {s : State} (h : tickWork s = 0) : s.tickRun = none := by
  cases hrun : s.tickRun with
  | none => rfl
  | some run =>
    have hpos := channelWork_pos run
    rw [tickWork_of_some hrun] at h
    omega

/-- A TICK that stays on its channel has less to do when the channel has (R240). -/
theorem tickWork_lt {s t : State} {run run' : TickRun} (hs : s.tickRun = some run)
    (ht : t.tickRun = some run') (hch : run'.ch = run.ch) (hcfg : t.cfg = s.cfg)
    (h : channelWork run' < channelWork run) : tickWork t < tickWork s := by
  rw [tickWork_of_some hs, tickWork_of_some ht, hch, hcfg]
  omega

/-- Every micro-step of a TICK in flight leaves fewer (R240). -/
theorem tickWork_tickMicro {s : State} {run : TickRun} (hrun : s.tickRun = some run) :
    tickWork (tickMicro s) < tickWork s := by
  have hcfg : (tickMicro s).cfg = s.cfg := by rw [tickMicro_frame]
  cases hphase : run.phase with
  | pull =>
    cases hpull : pullStep run.ch s with
    | none =>
      have ht : (tickMicro s).tickRun = some { run with phase := .path } := by
        simp only [tickMicro, hrun, hphase, hpull]
      refine tickWork_lt hrun ht rfl hcfg ?_
      simp only [channelWork, hphase]
      omega
    | some t =>
      have ht : (tickMicro s).tickRun = some { run with left := run.left - 1, phase := .fft } := by
        simp only [tickMicro, hrun, hphase, hpull]
      refine tickWork_lt hrun ht rfl hcfg ?_
      simp only [channelWork, hphase]
      omega
  | fft =>
    have ht : (tickMicro s).tickRun = some { run with phase := .next run.left } := by
      simp only [tickMicro, hrun, hphase]
    refine tickWork_lt hrun ht rfl hcfg ?_
    rw [channelWork_next]
    simp only [channelWork, hphase]
    omega
  | path =>
    cases hch : run.ch with
    | l =>
      have ht : (tickMicro s).tickRun = some (.start run.bounds .r s.cfg.qcap) := by
        simp only [tickMicro, hrun, hphase, hch]
      rw [tickWork_of_some hrun, tickWork_of_some ht, hch, TickRun.start, channelWork_next]
      simp only [channelWork, hphase, laterWork]
      omega
    | r =>
      have ht : (tickMicro s).tickRun = none := by simp only [tickMicro, hrun, hphase, hch]
      have hpos := channelWork_pos run
      rw [tickWork_of_some hrun, tickWork_of_none ht]
      omega

/-- As many micro-steps as are left end a TICK (R240). -/
theorem tickWork_of_runsAgenda {k : Nat} {s t : State}
    (h : RunsAgenda (List.replicate k .tick) s t) : tickWork t ≤ tickWork s - k := by
  induction k generalizing s with
  | zero =>
    cases runsAgenda_nil.mp h
    exact Nat.le_refl _
  | succ k ih =>
    obtain ⟨u, hu, hrest⟩ := runsAgenda_cons.mp h
    have hle := ih hrest
    cases hu
    cases hrun : s.tickRun with
    | none =>
      have hidle : tickMicro { s with sched := List.replicate k .tick } =
          { s with sched := List.replicate k .tick } := by simp only [tickMicro, hrun]
      have hzero : tickWork s = 0 := tickWork_of_none hrun
      rw [hidle] at hle
      have hsame : tickWork { s with sched := List.replicate k .tick } = tickWork s := rfl
      omega
    | some run =>
      have hlt := tickWork_tickMicro (s := { s with sched := List.replicate k .tick }) hrun
      have hsame : tickWork { s with sched := List.replicate k .tick } = tickWork s := rfl
      omega

end Sys2Proof.Machine
end

section
/-! The obligation about a TICK in flight (45_analyzer.md R240). -/

open Sys2Proof Sys2Proof.Machine

/-- Settles O57: no micro-step changes the state the TICK ends in (`tickEnd_tickMicro`), which at its
start is the one the whole command gives, and each leaves fewer to make (`tickWork_of_runsAgenda`). -/
theorem tickMicroStepsRefineTick : Obligations.TickMicroStepsRefineTick := by
  intro b s hprep hb hanen
  have hcheck := boundsCheck_eq_none hprep hb
  refine ⟨if_pos ⟨hcheck, hanen⟩, fun t es hes hrun hdone => ?refines, ?ends⟩
  case refines =>
    obtain ⟨hend, hsched⟩ := hrun.keeps
      (P := fun u => tickEnd u = tickEnd { s with tickRun := some (.start b .l s.cfg.qcap) })
      (fun u sched hu => hu)
      (fun e he u v hu hv => by
        obtain rfl := hes e he
        cases hv
        rw [tickEnd_tickMicro, hu]) rfl
    rw [tickEnd_of_none hdone, atRest_eq_self hdone hsched, tickEnd_start] at hend
    rw [hend]
    exact exec_tick_of_enabled (s := atRest s) hprep hanen hb
  case ends =>
    obtain ⟨t, hrun⟩ := exists_runs (List.replicate (4 * s.cfg.qcap + 4) Event.tick).length
      { s with
        tickRun := some (.start b .l s.cfg.qcap)
        sched := List.replicate (4 * s.cfg.qcap + 4) .tick }
    refine ⟨t, hrun, tickRun_eq_none_of_tickWork ?_⟩
    have hle := tickWork_of_runsAgenda
      (s := { s with tickRun := some (.start b .l s.cfg.qcap) }) hrun
    have hstart : tickWork { s with tickRun := some (.start b .l s.cfg.qcap) } =
        2 * s.cfg.qcap + 1 + (2 * s.cfg.qcap + 1) :=
      (tickWork_of_some rfl).trans (congrArg (· + _) (channelWork_next ..))
    omega

end

section
/-! SUPPORT. The bits of a binary32 value (00_scope.md R12): its sign, and the 31 bits of its
magnitude, which order the finite values as their magnitudes do. -/

namespace Sys2Proof

/-- The magnitude bits of a value: everything but the sign (R12). -/
def F32.bits (w : F32) : Nat := w.toNat % 2 ^ 31

/-- The magnitude that bits stand for, in units of 2^-149 (R12). -/
def magOf (m : Nat) : Nat :=
  if m / 2 ^ 23 = 0 then m % 2 ^ 23 else (2 ^ 23 + m % 2 ^ 23) * 2 ^ (m / 2 ^ 23 - 1)

theorem F32.inf_toNat : F32.inf.toNat = 255 * 2 ^ 23 := rfl

theorem F32.bits_lt (w : F32) : w.bits < 2 ^ 31 := Nat.mod_lt _ (by decide)

theorem F32.expo_eq (w : F32) : w.expo = w.bits / 2 ^ 23 := by
  unfold F32.expo F32.bits
  omega

theorem F32.frac_eq (w : F32) : w.frac = w.bits % 2 ^ 23 := by
  unfold F32.frac F32.bits
  omega

theorem F32.mag_eq (w : F32) : w.mag = magOf w.bits := by
  rw [F32.mag, F32.expo_eq, F32.frac_eq, magOf]

/-- The finite values are those with magnitude bits below those of infinity (R15). -/
theorem F32.isFinite_iff (w : F32) : w.isFinite = true ↔ w.bits < F32.inf.toNat := by
  have hlt := w.bits_lt
  rw [F32.isFinite, F32.expo_eq, F32.inf_toNat, bne_iff_ne]
  omega

theorem F32.isInf_iff (w : F32) : w.isInf = true ↔ w.bits = F32.inf.toNat := by
  have hlt := w.bits_lt
  have hfin := w.isFinite_iff
  rw [F32.isInf, Bool.and_eq_true, Bool.not_eq_true', Bool.not_eq_true', ← Bool.not_eq_true, hfin,
    F32.isNaN, F32.expo_eq, F32.frac_eq, F32.inf_toNat, Bool.and_eq_false_iff, beq_eq_false_iff_ne,
    bne_eq_false_iff_eq]
  omega

/-- A word is its sign and its magnitude bits (R12). -/
theorem F32.toNat_eq (w : F32) : w.toNat = (if w.neg? then 2 ^ 31 else 0) + w.bits := by
  have hlt := w.isLt
  unfold F32.neg? F32.bits
  by_cases hneg : w.toNat / 2 ^ 31 = 1
  · simp only [hneg, beq_self_eq_true, if_true]
    omega
  · rw [if_neg (by simpa using hneg)]
    omega

theorem F32.ext_bits {a b : F32} (hneg : a.neg? = b.neg?) (hbits : a.bits = b.bits) : a = b :=
  BitVec.eq_of_toNat_eq (by rw [a.toNat_eq, b.toNat_eq, hneg, hbits])

section
variable {m : Nat} (hm : m < 2 ^ 31) (neg : Bool)
include hm

theorem withSign_toNat : (withSign neg m).toNat = (if neg then 2 ^ 31 else 0) + m := by
  unfold withSign
  cases neg <;> simp <;> omega

@[simp] theorem withSign_neg? : (withSign neg m).neg? = neg := by
  rw [F32.neg?, withSign_toNat hm]
  cases neg <;> simp <;> omega

@[simp] theorem withSign_bits : (withSign neg m).bits = m := by
  rw [F32.bits, withSign_toNat hm]
  cases neg <;> simp <;> omega

theorem withSign_toNat_mod_two : (withSign neg m).toNat % 2 = m % 2 := by
  rw [withSign_toNat hm]
  cases neg <;> simp
  omega

end

/-- A word written from its own sign and magnitude bits (R12). -/
theorem withSign_self (w : F32) : withSign w.neg? w.bits = w :=
  F32.ext_bits (withSign_neg? w.bits_lt _) (withSign_bits w.bits_lt _)

theorem F32.exact_eq (w : F32) :
    w.exact = if w.neg? then -(magOf w.bits : Int) else magOf w.bits := by
  rw [F32.exact, F32.mag_eq]

theorem F32.natAbs_exact (w : F32) : w.exact.natAbs = magOf w.bits := by
  rw [F32.exact_eq]
  split <;> simp

theorem fabs_toNat (w : F32) : (fabs w).toNat = w.bits := by
  have hmask : (0x7FFFFFFF#32).toNat = 2 ^ 31 - 1 := rfl
  rw [fabs, BitVec.toNat_and, hmask, Nat.and_two_pow_sub_one_eq_mod, F32.bits]

theorem fabs_eq_withSign (w : F32) : fabs w = withSign false w.bits :=
  BitVec.eq_of_toNat_eq (by rw [fabs_toNat, withSign_toNat w.bits_lt]; simp)

theorem fabs_eq_zero_iff (w : F32) : (fabs w == F32.zero) = true ↔ w.bits = 0 := by
  rw [beq_iff_eq, ← fabs_toNat]
  exact ⟨fun h => by rw [h]; rfl, fun h => BitVec.eq_of_toNat_eq h⟩

/-- Flipping the sign keeps the magnitude (R12). -/
@[simp] theorem fneg_bits (w : F32) : (fneg w).bits = w.bits := by
  have h : (fneg w).setWidth 31 = w.setWidth 31 := by
    have hsign : (0x80000000#32).setWidth 31 = 0#31 := by decide
    rw [fneg, BitVec.setWidth_xor, hsign, BitVec.xor_zero]
  simpa [F32.bits] using congrArg BitVec.toNat h

theorem F32.neg?_eq_msb (w : F32) : w.neg? = w.msb := by
  have hlt := w.isLt
  rw [BitVec.msb_eq_decide, F32.neg?, Bool.eq_iff_iff, beq_iff_eq, decide_eq_true_iff]
  omega

@[simp] theorem fneg_neg? (w : F32) : (fneg w).neg? = !w.neg? := by
  have hsign : (0x80000000#32).msb = true := by decide
  rw [F32.neg?_eq_msb, F32.neg?_eq_msb, fneg, BitVec.msb_xor, hsign, Bool.xor_true]

@[simp] theorem fneg_exact (w : F32) : (fneg w).exact = -w.exact := by
  rw [F32.exact_eq, F32.exact_eq, fneg_neg?, fneg_bits]
  cases w.neg? <;> simp

@[simp] theorem fneg_isFinite (w : F32) : (fneg w).isFinite = w.isFinite := by
  rw [Bool.eq_iff_iff, F32.isFinite_iff, F32.isFinite_iff, fneg_bits]

@[simp] theorem fneg_isInf (w : F32) : (fneg w).isInf = w.isInf := by
  rw [Bool.eq_iff_iff, F32.isInf_iff, F32.isInf_iff, fneg_bits]

end Sys2Proof
end

section
/-! SUPPORT. The grid of finite magnitudes (00_scope.md R12): what bits at an exponent stand for, and
that magnitudes grow with their bits. -/

namespace Sys2Proof

/-- The bits of R units of 2^t, R of at most 24 bits and normal above the lowest exponent; R = 2^24 is
the carry into the next exponent (R12). -/
theorem magOf_exponent {t R : Nat} (hhigh : R ≤ 2 ^ 24) (hlow : t = 0 ∨ 2 ^ 23 ≤ R) :
    magOf (t * 2 ^ 23 + R) = R * 2 ^ t := by
  by_cases hcarry : R = 2 ^ 24
  · subst hcarry
    have hexpo : (t * 2 ^ 23 + 2 ^ 24) / 2 ^ 23 = t + 2 := by omega
    have hfrac : (t * 2 ^ 23 + 2 ^ 24) % 2 ^ 23 = 0 := by omega
    rw [magOf, hexpo, hfrac, if_neg (by omega), Nat.add_sub_cancel (m := 1) (n := t + 1)]
    ring
  · by_cases hsub : R < 2 ^ 23
    · obtain rfl : t = 0 := by omega
      have hexpo : (0 * 2 ^ 23 + R) / 2 ^ 23 = 0 := by omega
      have hfrac : (0 * 2 ^ 23 + R) % 2 ^ 23 = R := by omega
      rw [magOf, hexpo, hfrac, if_pos rfl, Nat.pow_zero, Nat.mul_one]
    · have hexpo : (t * 2 ^ 23 + R) / 2 ^ 23 = t + 1 := by omega
      have hfrac : 2 ^ 23 + (t * 2 ^ 23 + R) % 2 ^ 23 = R := by omega
      rw [magOf, hexpo, hfrac, if_neg (by omega), Nat.add_sub_cancel]

/-- A magnitude is a multiple of 2^t, or below 2^23 such units (R12). -/
theorem magOf_dvd_or_lt (t m : Nat) : 2 ^ t ∣ magOf m ∨ magOf m < 2 ^ 23 * 2 ^ t := by
  have hfrac : m % 2 ^ 23 < 2 ^ 23 := Nat.mod_lt _ (by decide)
  unfold magOf
  split
  next => exact .inr (lt_of_lt_of_le hfrac (Nat.le_mul_of_pos_right _ (Nat.two_pow_pos t)))
  next hexpo =>
    by_cases ht : m / 2 ^ 23 ≤ t
    · refine .inr ?_
      obtain ⟨k, hk⟩ := Nat.exists_eq_add_of_le ht
      have hpow : 2 ^ t = 2 ^ (m / 2 ^ 23 - 1) * (2 * 2 ^ k) := by
        rw [hk, ← Nat.pow_succ', ← Nat.pow_add]
        congr 1
        omega
      have hpos := Nat.two_pow_pos (m / 2 ^ 23 - 1)
      have hk1 : 2 ≤ 2 * 2 ^ k := Nat.le_mul_of_pos_right 2 (Nat.two_pow_pos k)
      rw [hpow, Nat.mul_left_comm, Nat.mul_comm]
      exact Nat.mul_lt_mul_of_pos_left (by nlinarith) hpos
    · exact .inl (Dvd.dvd.mul_left (pow_dvd_pow 2 (by omega)) _)

end Sys2Proof
end

section
/-! SUPPORT. Rounding to nearest, ties to even (00_scope.md R12), of a quotient to a whole number and
to the grid of finite magnitudes. -/

namespace Sys2Proof

/-- Bits at the exponent they belong to (R12). -/
theorem exists_exponent (m : Nat) :
    ∃ t R, m = t * 2 ^ 23 + R ∧ R < 2 ^ 24 ∧ (t = 0 ∨ 2 ^ 23 ≤ R) :=
  ⟨m / 2 ^ 23 - 1, m - (m / 2 ^ 23 - 1) * 2 ^ 23, by omega, by omega, by omega⟩

/-- Magnitudes grow with their bits (R12, R15). -/
theorem magOf_strictMono : StrictMono magOf := by
  refine strictMono_nat_of_lt_succ fun m => ?_
  obtain ⟨t, R, rfl, hhigh, hlow⟩ := exists_exponent m
  rw [magOf_exponent hhigh.le hlow, Nat.add_assoc, magOf_exponent hhigh (hlow.imp_right Nat.le_succ_of_le)]
  exact Nat.mul_lt_mul_of_pos_right (Nat.lt_succ_self R) (Nat.two_pow_pos t)

@[simp] theorem magOf_zero : magOf 0 = 0 := by decide

theorem magOf_eq_zero_iff {m : Nat} : magOf m = 0 ↔ m = 0 :=
  ⟨fun h => magOf_strictMono.injective (h.trans magOf_zero.symm), fun h => by rw [h, magOf_zero]⟩

/-- The rounded quotient is within half a unit, and even where it is half a unit away (R12). -/
theorem roundHalfEven_near {n d : Nat} (hd : 0 < d) :
    2 * |(roundHalfEven n d * d : Int) - n| ≤ d ∧
      (2 * |(roundHalfEven n d * d : Int) - n| = d → roundHalfEven n d % 2 = 0) := by
  have hn : (n : Int) = d * (n / d : Nat) + (n % d : Nat) := by
    exact_mod_cast (Nat.div_add_mod n d).symm
  have hr : n % d < d := Nat.mod_lt n hd
  unfold roundHalfEven
  simp only
  split
  next hup =>
    have hdiff : (((n / d + 1 : Nat) : Int) * d - n) = d - (n % d : Nat) := by
      rw [hn]
      push_cast
      ring
    rw [hdiff, abs_of_nonneg (by omega)]
    omega
  next hdown =>
    have hdiff : (((n / d : Nat) : Int) * d - n) = -(n % d : Nat) := by
      rw [hn]
      ring
    rw [hdiff, abs_neg, abs_of_nonneg (by omega)]
    omega

/-- No whole number is nearer than the rounded quotient, and one as near is that one or makes it a tie
that went to the even side (R12). -/
theorem roundHalfEven_nearest {n d : Nat} (hd : 0 < d) (c : Int) :
    |(roundHalfEven n d * d : Int) - n| ≤ |c * d - n| ∧
      (|(roundHalfEven n d * d : Int) - n| = |c * d - n| →
        c = roundHalfEven n d ∨ roundHalfEven n d % 2 = 0) := by
  obtain ⟨hnear, heven⟩ := roundHalfEven_near (n := n) hd
  by_cases hc : c = roundHalfEven n d
  · subst hc
    exact ⟨le_rfl, fun _ => .inl rfl⟩
  · have hgap : (d : Int) ≤ |(roundHalfEven n d * d : Int) - c * d| := by
      rw [← sub_mul, abs_mul, abs_of_pos (Int.natCast_pos.mpr hd)]
      have hone : 1 ≤ |(roundHalfEven n d : Int) - c| := Int.one_le_abs (sub_ne_zero.mpr (Ne.symm hc))
      nlinarith
    have htri := abs_sub_le (roundHalfEven n d * d : Int) n (c * d)
    rw [abs_sub_comm (n : Int)] at htri
    exact ⟨by omega, fun htie => .inr (heven (by omega))⟩

theorem roundHalfEven_le {n d k : Nat} (hd : 0 < d) (h : n ≤ k * d) : roundHalfEven n d ≤ k := by
  have hk : n / d ≤ k := (Nat.div_le_div_right h).trans_eq (Nat.mul_div_cancel k hd)
  have hn := Nat.div_add_mod n d
  unfold roundHalfEven
  simp only
  split
  next hup =>
    have hne : n / d ≠ k := by
      intro heq
      rw [heq, Nat.mul_comm] at hn
      omega
    omega
  next => exact hk

theorem le_roundHalfEven {n d k : Nat} (hd : 0 < d) (h : k * d ≤ n) : k ≤ roundHalfEven n d := by
  have hk : k ≤ n / d := (Nat.le_div_iff_mul_le hd).mpr h
  unfold roundHalfEven
  simp only
  split <;> omega

/-- Less than half a unit below k the quotient is not rounded up to k. -/
theorem roundHalfEven_lt {n d k : Nat} (hd : 0 < d) (h : 2 * n + d < 2 * k * d) :
    roundHalfEven n d < k := by
  by_contra hge
  obtain ⟨hnear, _⟩ := roundHalfEven_near (n := n) hd
  have hmul : (k * d : Int) ≤ roundHalfEven n d * d := by
    exact_mod_cast Nat.mul_le_mul_right d (Nat.not_lt.mp hge)
  have habs := le_abs_self (roundHalfEven n d * d - n : Int)
  have h' : (2 * n + d : Int) < 2 * k * d := by exact_mod_cast h
  linarith

/-- From half a unit below an even k on the quotient is rounded up to k. -/
theorem le_roundHalfEven_of_even {n d k : Nat} (hd : 0 < d) (hk : k % 2 = 0)
    (h : 2 * k * d ≤ 2 * n + d) : k ≤ roundHalfEven n d := by
  by_contra hlt
  obtain ⟨hnear, heven⟩ := roundHalfEven_near (n := n) hd
  have hsucc : roundHalfEven n d + 1 ≤ k := Nat.succ_le_of_lt (Nat.not_le.mp hlt)
  have hmul : (roundHalfEven n d * d + d : Int) ≤ k * d := by
    exact_mod_cast (Nat.succ_mul _ d).symm.trans_le (Nat.mul_le_mul_right d hsucc)
  have habs := neg_abs_le (roundHalfEven n d * d - n : Int)
  have h' : (2 * k * d : Int) ≤ 2 * n + d := by exact_mod_cast h
  have htie := heven (by linarith)
  have hne : roundHalfEven n d + 1 ≠ k := by omega
  have hsucc2 : roundHalfEven n d + 2 ≤ k := by omega
  have hmul2 : (roundHalfEven n d * d + 2 * d : Int) ≤ k * d := by
    exact_mod_cast (Nat.add_mul _ 2 d).symm.trans_le (Nat.mul_le_mul_right d hsucc2)
  have hd' : (0 : Int) < d := by exact_mod_cast hd
  linarith

/-- Where the grid is met (R12): R units of 2^t, R of at most 24 bits, and of exactly 24 bits before
rounding unless 2^t is the lowest unit. -/
structure OnGrid (n d t R : Nat) : Prop where
  round : R = roundHalfEven n (d * 2 ^ t)
  below : n < 2 ^ 24 * (d * 2 ^ t)
  above : t = 0 ∨ 2 ^ 23 * (d * 2 ^ t) ≤ n

theorem exists_onGrid {n d : Nat} (hd : 0 < d) :
    ∃ t R, roundMag n d = min (t * 2 ^ 23 + R) F32.inf.toNat ∧ OnGrid n d t R := by
  refine ⟨Nat.log2 (n / d) - 23, _, rfl, rfl, ?below, ?above⟩
  case below =>
    have hq : n / d < 2 ^ (Nat.log2 (n / d) + 1) := Nat.lt_log2_self
    have hpow : 2 ^ (Nat.log2 (n / d) + 1) ≤ 2 ^ 24 * 2 ^ (Nat.log2 (n / d) - 23) := by
      rw [← Nat.pow_add]
      exact Nat.pow_le_pow_right (by decide) (by omega)
    have hn := (Nat.div_lt_iff_lt_mul hd).mp (hq.trans_le hpow)
    rwa [Nat.mul_assoc, Nat.mul_comm (2 ^ _) d] at hn
  case above =>
    by_cases hlow : Nat.log2 (n / d) ≤ 23
    · exact .inl (by omega)
    · have hne : n / d ≠ 0 := by
        intro hzero
        rw [hzero, Nat.log2_zero] at hlow
        omega
      have hq : 2 ^ Nat.log2 (n / d) ≤ n / d := Nat.log2_self_le hne
      have hpow : 2 ^ Nat.log2 (n / d) = 2 ^ 23 * 2 ^ (Nat.log2 (n / d) - 23) := by
        rw [← Nat.pow_add]
        congr 1
        omega
      rw [hpow] at hq
      have hn := (Nat.le_div_iff_mul_le hd).mp hq
      rw [Nat.mul_assoc, Nat.mul_comm (2 ^ _) d] at hn
      exact .inr hn

section
variable {n d t R : Nat} (hd : 0 < d) (h : OnGrid n d t R)
include hd h

theorem OnGrid.le : R ≤ 2 ^ 24 :=
  h.round ▸ roundHalfEven_le (Nat.mul_pos hd (Nat.two_pow_pos t)) h.below.le

theorem OnGrid.normal : t = 0 ∨ 2 ^ 23 ≤ R :=
  h.above.imp_right fun habove =>
    h.round ▸ le_roundHalfEven (Nat.mul_pos hd (Nat.two_pow_pos t)) habove

theorem OnGrid.magOf_mul : (magOf (t * 2 ^ 23 + R) * d : Int) = R * (d * 2 ^ t : Nat) := by
  rw [magOf_exponent (h.le hd) (h.normal hd)]
  push_cast
  ring

/-- No finite magnitude is nearer than the one the grid gives, and one as near is that one or makes it
a tie that went to the even side (R12). -/
theorem OnGrid.nearest (c : Nat) :
    |(magOf (t * 2 ^ 23 + R) * d : Int) - n| ≤ |(magOf c * d : Int) - n| ∧
      (|(magOf (t * 2 ^ 23 + R) * d : Int) - n| = |(magOf c * d : Int) - n| →
        magOf c = magOf (t * 2 ^ 23 + R) ∨ (t * 2 ^ 23 + R) % 2 = 0) := by
  have hpos : 0 < d * 2 ^ t := Nat.mul_pos hd (Nat.two_pow_pos t)
  have hgrid := h.magOf_mul hd
  rw [hgrid]
  by_cases hdvd : 2 ^ t ∣ magOf c
  · obtain ⟨k, hk⟩ := hdvd
    have hc : (magOf c * d : Int) = k * (d * 2 ^ t : Nat) := by
      rw [hk]
      push_cast
      ring
    rw [hc, h.round]
    obtain ⟨hle, htie⟩ := roundHalfEven_nearest (n := n) hpos k
    refine ⟨hle, fun heq => (htie heq).imp (fun hkR => ?_) (fun heven => by omega)⟩
    rw [← h.round, magOf_exponent (h.le hd) (h.normal hd), hk, h.round, ← Int.natCast_inj.mp hkR,
      Nat.mul_comm]
  · have hlt := (magOf_dvd_or_lt t c).resolve_left hdvd
    have ht : t ≠ 0 := by
      rintro rfl
      exact hdvd (one_dvd _)
    have habove : 2 ^ 23 * (d * 2 ^ t) ≤ n := h.above.resolve_left ht
    have hbelow : magOf c * d < 2 ^ 23 * (d * 2 ^ t) := by
      calc magOf c * d < 2 ^ 23 * 2 ^ t * d := Nat.mul_lt_mul_of_pos_right hlt hd
        _ = 2 ^ 23 * (d * 2 ^ t) := by ring
    obtain ⟨hle, _⟩ := roundHalfEven_nearest (n := n) hpos (2 ^ 23)
    have hleft : |(magOf c * d : Int) - n| = n - magOf c * d := by
      rw [abs_sub_comm, abs_of_nonneg]
      have : (magOf c * d : Int) < n := by exact_mod_cast hbelow.trans_le habove
      linarith
    have hedge : |(2 ^ 23 * (d * 2 ^ t : Nat) : Int) - n| = n - 2 ^ 23 * (d * 2 ^ t : Nat) := by
      rw [abs_sub_comm, abs_of_nonneg]
      have : (2 ^ 23 * (d * 2 ^ t : Nat) : Int) ≤ n := by exact_mod_cast habove
      linarith
    have hstrict : (magOf c * d : Int) < 2 ^ 23 * (d * 2 ^ t : Nat) := by exact_mod_cast hbelow
    rw [← h.round, hedge] at hle
    rw [hleft]
    exact ⟨by linarith, fun heq => by linarith⟩

/-- The grid ends at infinity exactly from the overflow bound on (R12). -/
theorem OnGrid.overflow_iff :
    F32.inf.toNat ≤ t * 2 ^ 23 + R ↔ Machine.overflowAt * d ≤ n := by
  have hpos : 0 < d * 2 ^ t := Nat.mul_pos hd (Nat.two_pow_pos t)
  have hle := h.le hd
  have hnormal := h.normal hd
  have hbelow := h.below
  have habove := h.above
  have hround := h.round
  obtain ⟨u, hu⟩ : ∃ u, u = d * 2 ^ 252 := ⟨_, rfl⟩
  have hunit : Machine.overflowAt * d = (2 ^ 25 - 1) * u := by
    rw [hu, Machine.overflowAt, Nat.mul_assoc, Nat.mul_comm (2 ^ 252)]
  rw [F32.inf_toNat, hunit]
  generalize hw : d * 2 ^ t = w at *
  rcases lt_trichotomy t 253 with hlt | heq | hgt
  · have hpow : w ≤ u :=
      hw ▸ hu ▸ Nat.mul_le_mul_left d (Nat.pow_le_pow_right (by decide) (by omega))
    clear hu hw
    exact iff_of_false (by omega) (by omega)
  · have hpow : w = 2 * u := by
      rw [← hw, hu, heq, Nat.mul_left_comm, ← Nat.pow_succ']
    have hup : 2 ^ 24 ≤ roundHalfEven n w ↔ 2 * 2 ^ 24 * w ≤ 2 * n + w :=
      ⟨fun hm => Nat.not_lt.mp fun hsmall => (roundHalfEven_lt hpos hsmall).not_ge hm,
        le_roundHalfEven_of_even hpos (by decide)⟩
    rw [← hround] at hup
    clear hu hw
    omega
  · have hpow : 4 * u ≤ w := by
      rw [← hw, hu, Nat.mul_left_comm]
      refine Nat.mul_le_mul_left d ?_
      rw [show 4 = 2 ^ 2 from rfl, ← Nat.pow_add]
      exact Nat.pow_le_pow_right (by decide) hgt
    clear hu hw
    exact iff_of_true (by omega) (by omega)

end

/-- The bits of the rounded quotient n / d: below the overflow bound the nearest finite magnitude, ties
to even, and from the bound on infinity (R12). -/
theorem roundMag_spec {n d : Nat} (hd : 0 < d) :
    (n < Machine.overflowAt * d → roundMag n d < F32.inf.toNat ∧ ∀ c : Nat,
      |(magOf (roundMag n d) * d : Int) - n| ≤ |(magOf c * d : Int) - n| ∧
      (|(magOf (roundMag n d) * d : Int) - n| = |(magOf c * d : Int) - n| →
        magOf c = magOf (roundMag n d) ∨ roundMag n d % 2 = 0)) ∧
    (Machine.overflowAt * d ≤ n → roundMag n d = F32.inf.toNat) := by
  obtain ⟨t, R, hround, hgrid⟩ := exists_onGrid (n := n) hd
  have hover := hgrid.overflow_iff hd
  rw [hround]
  constructor
  · intro hn
    have hfin : t * 2 ^ 23 + R < F32.inf.toNat := by
      by_contra hge
      have := hover.mp (Nat.not_lt.mp hge)
      omega
    rw [Nat.min_eq_left hfin.le]
    exact ⟨hfin, hgrid.nearest hd⟩
  · exact fun hn => Nat.min_eq_right (hover.mpr hn)

end Sys2Proof
end

section
/-! SUPPORT. A signed value rounded by its magnitude (00_scope.md R12). -/

namespace Sys2Proof

theorem roundMag_lt (n d : Nat) : roundMag n d < 2 ^ 31 :=
  lt_of_le_of_lt (Nat.min_le_right _ _) (by decide)

section
variable {num : Int} {den : Nat} {w : F32}

/-- The distance of a value from an exact one of its sign is that of their magnitudes. -/
theorem abs_exact_sub_of_same_sign
    (hnum : num = if w.neg? then -(num.natAbs : Int) else num.natAbs) :
    |w.exact * den - num| = |(magOf w.bits * den : Int) - num.natAbs| := by
  rw [w.exact_eq]
  generalize num.natAbs = N at hnum
  subst hnum
  split
  · rw [← abs_neg]
    ring_nf
  · rfl

/-- The distance of a value from an exact one of the other sign is the sum of their magnitudes. -/
theorem abs_exact_sub_of_other_sign
    (hnum : num = if !w.neg? then -(num.natAbs : Int) else num.natAbs) :
    |w.exact * den - num| = magOf w.bits * den + num.natAbs := by
  rw [w.exact_eq]
  generalize num.natAbs = N at hnum
  subst hnum
  have hsum : 0 ≤ (magOf w.bits * den : Int) + N := by positivity
  cases w.neg?
  · simpa using hsum
  · rw [← abs_neg]
    simpa [add_comm] using hsum

end

/-- The magnitude rounded and the sign put back is the exact value rounded (R12): no value of the other
sign is nearer, and one as near is a tie only between zeros. -/
theorem roundsTo_withSign {num : Int} {den : Nat} {neg : Bool} (hden : 0 < den)
    (hsign : num = if neg then -(num.natAbs : Int) else num.natAbs) :
    Machine.RoundsTo num den neg (withSign neg (roundMag num.natAbs den)) := by
  have hlt := roundMag_lt num.natAbs den
  obtain ⟨hfin, hinf⟩ := roundMag_spec (n := num.natAbs) hden
  refine ⟨withSign_neg? hlt neg, fun hbelow => ?_, fun habove => by rw [hinf habove]⟩
  obtain ⟨hbits, hnear⟩ := hfin hbelow
  have hr : |(withSign neg (roundMag num.natAbs den)).exact * den - num|
      = |(magOf (roundMag num.natAbs den) * den : Int) - num.natAbs| := by
    rw [abs_exact_sub_of_same_sign (by rwa [withSign_neg? hlt]), withSign_bits hlt]
  refine ⟨by rwa [F32.isFinite_iff, withSign_bits hlt], fun c _ => ?_⟩
  rw [hr, withSign_toNat_mod_two hlt]
  by_cases hc : c.neg? = neg
  · rw [abs_exact_sub_of_same_sign (w := c) (by rwa [hc])]
    obtain ⟨hle, htie⟩ := hnear c.bits
    refine ⟨hle, fun heq => (htie heq).imp_left fun hmag => ?_⟩
    rw [c.exact_eq, F32.exact_eq, withSign_neg? hlt, withSign_bits hlt, hc, hmag]
  · have hother : neg = !c.neg? := Bool.eq_not.mpr (Ne.symm hc)
    rw [abs_exact_sub_of_other_sign (w := c) (by rwa [← hother])]
    obtain ⟨hzero, htiezero⟩ := hnear 0
    rw [magOf_zero, Nat.cast_zero, zero_mul, zero_sub, abs_neg, Nat.abs_cast] at hzero htiezero
    have hpos : (0 : Int) ≤ magOf c.bits * den := by positivity
    refine ⟨by omega, fun heq => .inr ?_⟩
    exact (htiezero (by omega)).elim (fun hmag => by rw [magOf_eq_zero_iff.mp hmag.symm]) id

end Sys2Proof
end

section
/-! SUPPORT. The cases of the sum, the product and the quotient (00_scope.md R12). -/

namespace Sys2Proof

theorem F32.not_isFinite_of_isInf {w : F32} (h : w.isInf = true) : w.isFinite = false := by
  rw [F32.isInf, Bool.and_eq_true, Bool.not_eq_true'] at h
  exact h.1

theorem F32.not_isNaN_of_isInf {w : F32} (h : w.isInf = true) : w.isNaN = false := by
  rw [F32.isInf, Bool.and_eq_true, Bool.not_eq_true', Bool.not_eq_true'] at h
  exact h.2

theorem F32.exact_eq_zero_iff (w : F32) : w.exact = 0 ↔ w.bits = 0 := by
  rw [← Int.natAbs_eq_zero, F32.natAbs_exact, magOf_eq_zero_iff]

theorem fabs_eq_zero_iff_exact (w : F32) : (fabs w == F32.zero) = true ↔ w.exact = 0 := by
  rw [fabs_eq_zero_iff, F32.exact_eq_zero_iff]

theorem F32.exact_ne_zero_of_isInf {w : F32} (h : w.isInf = true) : w.exact ≠ 0 := by
  rw [Ne, F32.exact_eq_zero_iff, (F32.isInf_iff w).mp h]
  decide

/-- An exact value is its magnitude with its sign, which on a zero may be either (R12). -/
theorem eq_signed_natAbs {z : Int} {neg : Bool} (hneg : z < 0 → neg = true)
    (hpos : 0 < z → neg = false) : z = if neg then -(z.natAbs : Int) else z.natAbs := by
  rcases lt_trichotomy z 0 with hlt | rfl | hgt
  · rw [hneg hlt, if_pos rfl]
    omega
  · simp
  · rw [hpos hgt, if_neg Bool.false_ne_true]
    omega

@[simp] theorem roundMag_zero (d : Nat) : roundMag 0 d = 0 := by
  simp [roundMag, roundHalfEven]

section
variable {a b : F32}

theorem sum?_of_finite (ha : a.isFinite = true) (hb : b.isFinite = true) :
    sum? a b = some (withSign
      (if a.exact + b.exact = 0 then a.neg? && b.neg? else decide (a.exact + b.exact < 0))
      (roundMag (a.exact + b.exact).natAbs 1)) := by
  simp only [sum?, F32.isNaN_eq_false_of_isFinite ha, F32.isNaN_eq_false_of_isFinite hb, ha, hb,
    Bool.or_self, Bool.false_eq_true, if_false, if_true]
  split
  next hzero => rw [hzero, Int.natAbs_zero, roundMag_zero]
  next => rfl

theorem sum?_of_inf_left (ha : a.isInf = true)
    (hb : b.isFinite = true ∨ (b.isInf = true ∧ a.neg? = b.neg?)) : sum? a b = some a := by
  rcases hb with hfin | ⟨hinf, hneg⟩
  · simp [sum?, F32.not_isNaN_of_isInf ha, F32.isNaN_eq_false_of_isFinite hfin,
      F32.not_isFinite_of_isInf ha, hfin]
  · simp [sum?, F32.not_isNaN_of_isInf ha, F32.not_isNaN_of_isInf hinf,
      F32.not_isFinite_of_isInf ha, hneg]

theorem sum?_of_inf_right (ha : a.isFinite = true) (hb : b.isInf = true) : sum? a b = some b := by
  simp [sum?, F32.isNaN_eq_false_of_isFinite ha, F32.not_isNaN_of_isInf hb, ha,
    F32.not_isFinite_of_isInf hb]

theorem sum?_of_inf_cancel (ha : a.isInf = true) (hb : b.isInf = true) (hneg : a.neg? ≠ b.neg?) :
    sum? a b = none := by
  simp [sum?, F32.not_isFinite_of_isInf ha, F32.not_isFinite_of_isInf hb, hneg]

/-- A finite sum is the exact one rounded (R12). -/
theorem roundsTo_sum (ha : a.isFinite = true) (hb : b.isFinite = true) {r : F32}
    (hr : sum? a b = some r) :
    Machine.RoundsTo (a.exact + b.exact) 1
      (if a.exact + b.exact = 0 then a.neg? && b.neg? else decide (a.exact + b.exact < 0)) r := by
  rw [sum?_of_finite ha hb, Option.some.injEq] at hr
  rw [← hr]
  refine roundsTo_withSign Nat.one_pos (eq_signed_natAbs (fun hlt => ?_) fun hgt => ?_)
  · rw [if_neg hlt.ne, decide_eq_true hlt]
  · rw [if_neg hgt.ne', decide_eq_false hgt.not_gt]

end

end Sys2Proof
end

section
/-! The obligation about the sum and the difference (00_scope.md R12). -/

open Sys2Proof Sys2Proof.Machine

/-- Settles O45: a finite sum is its exact value's magnitude rounded with the sign put back, and the
difference is the sum with the negated operand. -/
theorem sumCorrectlyRounded : Obligations.SumCorrectlyRounded := by
  unfold Obligations.SumCorrectlyRounded
  intro j a b
  refine ⟨fun ha hb => ⟨?sum, ?difference⟩, fun ha hb => ?infLeft, fun ha hb => ?infLeftSub,
    fun ha hb => ⟨?infRight, ?infRightSub⟩, fun ha hb => ⟨fun hneg => ?cancel, fun hneg => ?cancelSub⟩,
    fun hnan => ⟨fadd_isNaN_of_nan j hnan, fsub_isNaN_of_nan j hnan⟩⟩
  case sum =>
    rw [fadd, sum?_of_finite ha hb]
    exact roundsTo_sum ha hb (sum?_of_finite ha hb)
  case difference =>
    have hb' : (fneg b).isFinite = true := by rwa [fneg_isFinite]
    have hround := roundsTo_sum ha hb' (sum?_of_finite ha hb')
    rw [fsub, sum?_of_finite ha hb']
    rwa [fneg_exact, fneg_neg?, ← sub_eq_add_neg] at hround ⊢
  case infLeft => rw [fadd, sum?_of_inf_left ha hb, Option.getD_some]
  case infLeftSub =>
    have hb' : (fneg b).isFinite = true ∨ ((fneg b).isInf = true ∧ a.neg? = (fneg b).neg?) := by
      rwa [fneg_isFinite, fneg_isInf, fneg_neg?, Bool.eq_not]
    rw [fsub, sum?_of_inf_left ha hb', Option.getD_some]
  case infRight => rw [fadd, sum?_of_inf_right ha hb, Option.getD_some]
  case infRightSub =>
    rw [fsub, sum?_of_inf_right ha (by rwa [fneg_isInf]), Option.getD_some]
  case cancel =>
    rw [fadd, sum?_of_inf_cancel ha hb hneg, Option.getD_none]
    exact nanOf_isNaN j .add a b
  case cancelSub =>
    have hneg' : a.neg? ≠ (fneg b).neg? := by rw [fneg_neg?, hneg]; simp
    rw [fsub, sum?_of_inf_cancel ha (by rwa [fneg_isInf]) hneg', Option.getD_none]
    exact nanOf_isNaN j .sub a b

end

section
/-! SUPPORT. The cases of the product and the quotient (00_scope.md R12). -/

namespace Sys2Proof

theorem F32.neg?_of_exact_neg {w : F32} (h : w.exact < 0) : w.neg? = true := by
  rw [w.exact_eq] at h
  cases hneg : w.neg?
  · simp [hneg] at h
    omega
  · rfl

theorem F32.neg?_of_exact_pos {w : F32} (h : 0 < w.exact) : w.neg? = false := by
  rw [w.exact_eq] at h
  cases hneg : w.neg?
  · rfl
  · simp [hneg] at h
    omega

theorem F32.natAbs_exact_mag (w : F32) : w.exact.natAbs = w.mag := by
  rw [F32.natAbs_exact, F32.mag_eq]

theorem fabs_ne_zero_of_exact {w : F32} (h : w.exact ≠ 0) : (fabs w == F32.zero) = false :=
  Bool.eq_false_iff.mpr (mt (fabs_eq_zero_iff_exact w).mp h)

/-- A product with a factor of the sign of b has the sign a and b have together; a zero may have
either (R12). -/
theorem mul_eq_signed_natAbs {a b : F32} {y : Int} (hneg : y < 0 → b.neg? = true)
    (hpos : 0 < y → b.neg? = false) :
    a.exact * y = if a.neg? != b.neg? then -((a.exact * y).natAbs : Int)
      else (a.exact * y).natAbs := by
  refine eq_signed_natAbs (fun hlt => ?_) fun hgt => ?_
  · rcases mul_neg_iff.mp hlt with ⟨ha, hy⟩ | ⟨ha, hy⟩
    · rw [F32.neg?_of_exact_pos ha, hneg hy]
      rfl
    · rw [F32.neg?_of_exact_neg ha, hpos hy]
      rfl
  · rcases mul_pos_iff.mp hgt with ⟨ha, hy⟩ | ⟨ha, hy⟩
    · rw [F32.neg?_of_exact_pos ha, hpos hy]
      rfl
    · rw [F32.neg?_of_exact_neg ha, hneg hy]
      rfl

section
variable {a b : F32}

theorem product?_of_finite (ha : a.isFinite = true) (hb : b.isFinite = true) :
    product? a b = some (withSign (a.neg? != b.neg?)
      (roundMag (a.exact * b.exact).natAbs (2 ^ 149))) := by
  simp only [product?, F32.isNaN_eq_false_of_isFinite ha, F32.isNaN_eq_false_of_isFinite hb, ha, hb,
    Bool.or_self, Bool.and_self, Bool.false_eq_true, if_false, if_true, Int.natAbs_mul,
    F32.natAbs_exact_mag]

/-- An infinity by a zero has no product (R12). -/
theorem product?_of_inf_zero (ha : a.isInf = true) (hb : b.isFinite = true) (hzero : b.exact = 0) :
    product? a b = none ∧ product? b a = none := by
  simp [product?, F32.not_isNaN_of_isInf ha, F32.isNaN_eq_false_of_isFinite hb,
    F32.not_isFinite_of_isInf ha, (fabs_eq_zero_iff_exact b).mpr hzero]

theorem product?_of_inf (ha : a.isInf = true) (hb : b.isFinite = true ∨ b.isInf = true)
    (hne : b.exact ≠ 0) :
    product? a b = some (withSign (a.neg? != b.neg?) F32.inf.toNat) ∧
      product? b a = some (withSign (a.neg? != b.neg?) F32.inf.toNat) := by
  have hnan : b.isNaN = false := hb.elim F32.isNaN_eq_false_of_isFinite F32.not_isNaN_of_isInf
  simp [product?, F32.not_isNaN_of_isInf ha, hnan, F32.not_isFinite_of_isInf ha,
    fabs_ne_zero_of_exact hne, fabs_ne_zero_of_exact (F32.exact_ne_zero_of_isInf ha),
    bne_comm (a := b.neg?)]

theorem quotient?_of_finite (ha : a.isFinite = true) (hb : b.isFinite = true) (hne : b.exact ≠ 0) :
    quotient? a b = some (withSign (a.neg? != b.neg?)
      (roundMag (a.exact * b.exact.sign * 2 ^ 149).natAbs b.exact.natAbs)) := by
  simp only [quotient?, F32.isNaN_eq_false_of_isFinite ha, F32.isNaN_eq_false_of_isFinite hb, ha, hb,
    Bool.or_self, Bool.false_eq_true, if_false, if_true, fabs_ne_zero_of_exact hne, Int.natAbs_mul,
    Int.natAbs_sign_of_ne_zero hne, F32.natAbs_exact_mag, Nat.mul_one, Int.natAbs_pow]
  rfl

theorem quotient?_of_zero (ha : a.isFinite = true) (hb : b.isFinite = true) (hzero : b.exact = 0) :
    quotient? a b = if a.exact = 0 then none
      else some (withSign (a.neg? != b.neg?) F32.inf.toNat) := by
  simp only [quotient?, F32.isNaN_eq_false_of_isFinite ha, F32.isNaN_eq_false_of_isFinite hb, ha, hb,
    Bool.or_self, Bool.false_eq_true, if_false, if_true, (fabs_eq_zero_iff_exact b).mpr hzero,
    fabs_eq_zero_iff_exact a]

theorem quotient?_of_inf_left (ha : a.isInf = true) (hb : b.isFinite = true) :
    quotient? a b = some (withSign (a.neg? != b.neg?) F32.inf.toNat) := by
  simp [quotient?, F32.not_isNaN_of_isInf ha, F32.isNaN_eq_false_of_isFinite hb,
    F32.not_isFinite_of_isInf ha, hb]

theorem quotient?_of_inf_right (ha : a.isFinite = true) (hb : b.isInf = true) :
    quotient? a b = some (withSign (a.neg? != b.neg?) 0) := by
  simp [quotient?, F32.isNaN_eq_false_of_isFinite ha, F32.not_isNaN_of_isInf hb, ha,
    F32.not_isFinite_of_isInf hb]

theorem quotient?_of_inf_inf (ha : a.isInf = true) (hb : b.isInf = true) : quotient? a b = none := by
  simp [quotient?, F32.not_isNaN_of_isInf ha, F32.not_isNaN_of_isInf hb,
    F32.not_isFinite_of_isInf ha, F32.not_isFinite_of_isInf hb]

theorem fdiv_isNaN_of_nan (j : Nat) (h : a.isNaN = true ∨ b.isNaN = true) :
    (fdiv j a b).isNaN = true := by
  have hnone : quotient? a b = none := by rw [quotient?, if_pos (by rwa [Bool.or_eq_true])]
  rw [fdiv, hnone, Option.getD_none]
  exact nanOf_isNaN j .div a b

/-- The exact quotient is that over a positive denominator, the divisor's sign moved to the numerator
(R12). -/
theorem roundsTo_quotient (ha : a.isFinite = true) (hb : b.isFinite = true) (hne : b.exact ≠ 0)
    {r : F32} (hr : quotient? a b = some r) :
    Machine.RoundsTo (a.exact * b.exact.sign * 2 ^ 149) b.exact.natAbs (a.neg? != b.neg?) r := by
  rw [quotient?_of_finite ha hb hne, Option.some.injEq] at hr
  rw [← hr]
  have hpow : (0 : Int) < 2 ^ 149 := by positivity
  refine roundsTo_withSign (Int.natAbs_pos.mpr hne) ?_
  rw [Int.mul_assoc]
  refine mul_eq_signed_natAbs (fun hlt => ?_) fun hgt => ?_
  · exact F32.neg?_of_exact_neg (Int.sign_neg_iff.mp (neg_of_mul_neg_left hlt hpow.le))
  · exact F32.neg?_of_exact_pos (Int.sign_pos_iff.mp (pos_of_mul_pos_left hgt hpow.le))

end

end Sys2Proof
end

section
/-! The obligation about the product and the quotient (00_scope.md R12). -/

open Sys2Proof Sys2Proof.Machine

/-- Settles O46: a finite product or quotient is its exact value's magnitude rounded with the sign the
operands have together; every other pair of operands is one case of the definition. -/
theorem productCorrectlyRounded : Obligations.ProductCorrectlyRounded := by
  unfold Obligations.ProductCorrectlyRounded
  intro j a b neg
  refine ⟨fun ha hb => ⟨?product, fun hne => ?quotient, fun hzero hne => ?overZero,
      fun hzero haz => ?zeroOverZero⟩,
    fun ha hb => ⟨fun hzero => ?infByZero, fun hne => ?infByFinite, ?infOver, ?overInf⟩,
    fun ha hb => ⟨?infByInf, ?infOverInf⟩,
    fun hnan => ⟨fmul_isNaN_of_nan j hnan, fdiv_isNaN_of_nan j hnan⟩⟩
  case product =>
    rw [fmul, product?_of_finite ha hb, Option.getD_some]
    exact roundsTo_withSign (by positivity)
      (mul_eq_signed_natAbs F32.neg?_of_exact_neg F32.neg?_of_exact_pos)
  case quotient =>
    rw [fdiv, quotient?_of_finite ha hb hne, Option.getD_some]
    exact roundsTo_quotient ha hb hne (quotient?_of_finite ha hb hne)
  case overZero => rw [fdiv, quotient?_of_zero ha hb hzero, if_neg hne, Option.getD_some]
  case zeroOverZero =>
    rw [fdiv, quotient?_of_zero ha hb hzero, if_pos haz, Option.getD_none]
    exact nanOf_isNaN j .div a b
  case infByZero =>
    obtain ⟨hab, hba⟩ := product?_of_inf_zero ha hb hzero
    rw [fmul, fmul, hab, hba, Option.getD_none, Option.getD_none]
    exact ⟨nanOf_isNaN j .mul a b, nanOf_isNaN j .mul b a⟩
  case infByFinite =>
    obtain ⟨hab, hba⟩ := product?_of_inf ha (.inl hb) hne
    rw [fmul, fmul, hab, hba]
    exact ⟨rfl, rfl⟩
  case infOver => rw [fdiv, quotient?_of_inf_left ha hb, Option.getD_some]
  case overInf => rw [fdiv, quotient?_of_inf_right hb ha, Option.getD_some, bne_comm]
  case infByInf =>
    rw [fmul, (product?_of_inf ha (.inr hb) (F32.exact_ne_zero_of_isInf hb)).1, Option.getD_some]
  case infOverInf =>
    rw [fdiv, quotient?_of_inf_inf ha hb, Option.getD_none]
    exact nanOf_isNaN j .div a b

end

section
/-! SUPPORT. What binary32 computes exactly (00_scope.md R12): a magnitude that is on the grid, so a sum
with zero and a quotient by one. -/

namespace Sys2Proof

theorem magOf_lt_overflow {c : Nat} (hc : c < F32.inf.toNat) : magOf c < Machine.overflowAt := by
  have hmax : magOf (F32.inf.toNat - 1) = (2 ^ 24 - 1) * 2 ^ 253 :=
    magOf_exponent (t := 253) (R := 2 ^ 24 - 1) (by decide) (.inr (by decide))
  calc magOf c ≤ magOf (F32.inf.toNat - 1) := magOf_strictMono.monotone (Nat.le_sub_one_of_lt hc)
    _ = (2 ^ 24 - 1) * 2 ^ 253 := hmax
    _ < Machine.overflowAt := by norm_num [Machine.overflowAt]

/-- A finite magnitude is rounded to itself (R12). -/
theorem roundMag_magOf {c d : Nat} (hd : 0 < d) (hc : c < F32.inf.toNat) :
    roundMag (magOf c * d) d = c := by
  obtain ⟨hfin, _⟩ := roundMag_spec (n := magOf c * d) hd
  obtain ⟨_, hnear⟩ := hfin (Nat.mul_lt_mul_of_pos_right (magOf_lt_overflow hc) hd)
  obtain ⟨hle, _⟩ := hnear c
  rw [Nat.cast_mul, sub_self, abs_zero, abs_nonpos_iff, sub_eq_zero] at hle
  have hmul : magOf (roundMag (magOf c * d) d) * d = magOf c * d := by exact_mod_cast hle
  exact magOf_strictMono.injective (Nat.eq_of_mul_eq_mul_right hd hmul)

/-- Adding zero to a finite value keeps its magnitude (R12). -/
theorem fadd_zero_bits (j : Nat) {w : F32} (hw : w.isFinite = true) :
    (fadd j w F32.zero).bits = w.bits := by
  have hzero : F32.zero.exact = 0 := by decide
  have hround := roundMag_magOf Nat.one_pos ((F32.isFinite_iff w).mp hw)
  rw [fadd, sum?_of_finite hw (by decide), Option.getD_some, withSign_bits (roundMag_lt _ _), hzero,
    Int.add_zero, F32.natAbs_exact, ← Nat.mul_one (magOf w.bits), hround]

theorem fabs_fadd_zero_zero (j : Nat) {w : F32} (hw : w.isFinite = true) :
    fabs (fadd j (fadd j w F32.zero) F32.zero) = fabs w := by
  have hbits := fadd_zero_bits j hw
  have hfin : (fadd j w F32.zero).isFinite = true := by
    rwa [F32.isFinite_iff, hbits, ← F32.isFinite_iff]
  rw [fabs_eq_withSign, fabs_eq_withSign, fadd_zero_bits j hfin, hbits]

@[simp] theorem fabs_one : fabs F32.one = F32.one := by decide

@[simp] theorem fabs_bits (w : F32) : (fabs w).bits = w.bits := by
  rw [fabs_eq_withSign, withSign_bits w.bits_lt]

/-- The quotient of a finite magnitude by one is that magnitude (R12). -/
theorem fdiv_fabs_one (j : Nat) {w : F32} (hw : w.isFinite = true) :
    fdiv j (fabs w) F32.one = fabs w := by
  have hfin : (fabs w).isFinite = true := by rwa [F32.isFinite_iff, fabs_bits, ← F32.isFinite_iff]
  have hone : F32.one.exact = 2 ^ 149 := by decide +kernel
  have hne : F32.one.exact ≠ 0 := by rw [hone]; exact pow_ne_zero _ two_ne_zero
  have hsign : (fabs w).neg? = false := by rw [fabs_eq_withSign, withSign_neg? w.bits_lt]
  have hround := roundMag_magOf (Nat.two_pow_pos 149) ((F32.isFinite_iff w).mp hw)
  have hnum : ((fabs w).exact * (F32.one.exact).sign * 2 ^ 149).natAbs = magOf w.bits * 2 ^ 149 := by
    rw [Int.natAbs_mul, Int.natAbs_mul, F32.natAbs_exact, fabs_bits, Int.natAbs_sign_of_ne_zero hne,
      Nat.mul_one, Int.natAbs_pow, show Int.natAbs 2 = 2 from rfl]
  have hden : F32.one.exact.natAbs = 2 ^ 149 := by rw [hone, Int.natAbs_pow, show Int.natAbs 2 = 2 from rfl]
  rw [fdiv, quotient?_of_finite hfin (by decide) hne, Option.getD_some, hnum, hden, hround, hsign,
    fabs_eq_withSign]
  rfl

end Sys2Proof
end

section
/-! SUPPORT. Where the cosine of a rational part of a turn is rational (42_mono_chain.md R171, R172):
the eight parts `twiceCos?` answers, by Niven's theorem. -/

namespace Sys2Proof

/-- The angle 2 pi hz / sr (R171). -/
noncomputable def turn (hz sr : Int) : ℝ := 2 * Real.pi * ((hz : ℝ) / sr)

/-- Whole turns do not change the cosine. -/
theorem cos_turn_emod (hz : Int) {sr : Int} (hsr : 0 < sr) :
    Real.cos (turn hz sr) = Real.cos (turn (hz % sr) sr) := by
  have hsr' : (sr : ℝ) ≠ 0 := by exact_mod_cast hsr.ne'
  have hdiv : (hz : ℝ) = sr * (hz / sr : Int) + (hz % sr : Int) := by
    exact_mod_cast (Int.mul_ediv_add_emod hz sr).symm
  have hturn : turn hz sr = turn (hz % sr) sr + (hz / sr : Int) * (2 * Real.pi) := by
    rw [turn, turn, hdiv]
    field_simp
    ring
  rw [hturn, Real.cos_add_int_mul_two_pi]

/-- The parts of a turn with a rational cosine (R172; Niven's theorem). -/
theorem part_of_rational_cos {r sr : Int} (hr : 0 ≤ r) (hlt : r < sr)
    (hcos : ∃ q : ℚ, Real.cos (turn r sr) = q) :
    r = 0 ∨ 6 * r = sr ∨ 4 * r = sr ∨ 3 * r = sr ∨ 2 * r = sr ∨ 3 * r = 2 * sr ∨ 4 * r = 3 * sr ∨
      6 * r = 5 * sr := by
  have hsr : (0 : ℚ) < sr := by exact_mod_cast hr.trans_lt hlt
  have hturn : turn r sr = ((2 * r / sr : ℚ) : ℝ) * Real.pi := by
    rw [turn]
    push_cast
    ring
  rw [hturn] at hcos
  have hfract := niven_fract_angle_div_pi_eq hcos
  have hdecomp := Int.floor_add_fract (2 * r / sr : ℚ)
  have hlow : 0 ≤ ⌊(2 * r / sr : ℚ)⌋ := Int.floor_nonneg.mpr (by positivity)
  have hhigh : ⌊(2 * r / sr : ℚ)⌋ < 2 := by
    rw [Int.floor_lt, div_lt_iff₀ hsr]
    exact_mod_cast (by omega : 2 * r < 2 * sr)
  obtain ⟨p, hp, hpart⟩ : ∃ p : Int, (p = 0 ∨ p = 2 ∨ p = 3 ∨ p = 4) ∧
      Int.fract (2 * r / sr : ℚ) = p / 6 := by
    rcases hfract with h | h | h | h
    · exact ⟨0, by decide, by rw [h]; norm_num⟩
    · exact ⟨2, by decide, by rw [h]; norm_num⟩
    · exact ⟨3, by decide, by rw [h]; norm_num⟩
    · exact ⟨4, by decide, by rw [h]; norm_num⟩
  have hscale : 12 * r = (6 * ⌊(2 * r / sr : ℚ)⌋ + p) * sr := by
    rw [hpart, eq_div_iff hsr.ne'] at hdecomp
    exact_mod_cast (by linear_combination -6 * hdecomp :
      (12 * r : ℚ) = (6 * ⌊(2 * r / sr : ℚ)⌋ + p) * sr)
  generalize ⌊(2 * r / sr : ℚ)⌋ = k at *
  obtain rfl | rfl : k = 0 ∨ k = 1 := by omega
  all_goals
    rcases hp with rfl | rfl | rfl | rfl <;> omega

/-- Equal parts of a turn are equal angles. -/
theorem turn_eq_of_part {r sr p q : Int} (hsr : 0 < sr) (hq : q ≠ 0) (h : q * r = p * sr) :
    turn r sr = turn p q := by
  have hsr' : (sr : ℝ) ≠ 0 := by exact_mod_cast hsr.ne'
  have hq' : (q : ℝ) ≠ 0 := by exact_mod_cast hq
  have h' : (q * r : ℝ) = p * sr := by exact_mod_cast h
  have hpart : (r : ℝ) / sr = p / q := by
    rw [div_eq_div_iff hsr' hq']
    linarith
  rw [turn, turn, hpart]

theorem cos_turn_zero : Real.cos (turn 0 1) = 1 := by
  simp [turn]

theorem cos_turn_half : Real.cos (turn 1 2) = -1 := by
  rw [← Real.cos_pi]
  congr 1
  norm_num [turn]
  ring

theorem cos_turn_quarter : Real.cos (turn 1 4) = 0 := by
  rw [← Real.cos_pi_div_two]
  congr 1
  norm_num [turn]
  ring

theorem cos_turn_sixth : Real.cos (turn 1 6) = 1 / 2 := by
  rw [← Real.cos_pi_div_three]
  congr 1
  norm_num [turn]
  ring

theorem cos_turn_third : Real.cos (turn 1 3) = -(1 / 2) := by
  rw [← Real.cos_pi_div_three, ← Real.cos_pi_sub]
  congr 1
  norm_num [turn]
  ring

/-- The cosine has the same value a part of a turn before and after zero. -/
theorem cos_turn_eq_of_add {p p' q : Int} (hq : q ≠ 0) (h : p + p' = q) :
    Real.cos (turn p q) = Real.cos (turn p' q) := by
  have hq' : (q : ℝ) ≠ 0 := by exact_mod_cast hq
  have h' : (p' : ℝ) = q - p := by
    rw [← h]
    push_cast
    ring
  rw [← Real.cos_two_pi_sub, turn, turn, h']
  congr 1
  field_simp

theorem cos_turn_two_thirds : Real.cos (turn 2 3) = -(1 / 2) := by
  rw [cos_turn_eq_of_add (p' := 1) (by decide) (by decide), cos_turn_third]

theorem cos_turn_three_quarters : Real.cos (turn 3 4) = 0 := by
  rw [cos_turn_eq_of_add (p' := 1) (by decide) (by decide), cos_turn_quarter]

theorem cos_turn_five_sixths : Real.cos (turn 5 6) = 1 / 2 := by
  rw [cos_turn_eq_of_add (p' := 1) (by decide) (by decide), cos_turn_sixth]

/-- `twiceCos?` answers 2 cos(w) wherever cos(w) is rational (R172). -/
theorem twiceCos?_of_rational_cos {hz sr : Int} (hsr : 0 < sr)
    (hcos : ∃ q : ℚ, Real.cos (turn hz sr) = q) :
    ∃ c, twiceCos? hz sr = some c ∧ (c : ℝ) = 2 * Real.cos (turn hz sr) := by
  rw [cos_turn_emod hz hsr] at hcos ⊢
  have hparts := part_of_rational_cos (Int.emod_nonneg hz hsr.ne') (Int.emod_lt_of_pos hz hsr) hcos
  have hcases {c : Int} {p q : Int} (hq : q ≠ 0) (hval : 2 * Real.cos (turn p q) = c)
      (h : q * (hz % sr) = p * sr) : (c : ℝ) = 2 * Real.cos (turn (hz % sr) sr) := by
    rw [turn_eq_of_part hsr hq h, hval]
  unfold twiceCos?
  simp only
  generalize hz % sr = r at *
  split_ifs with hzero hhalf hquarter hthird hsixth
  · exact ⟨2, rfl, hcases (p := 0) (q := 1) (by decide) (by norm_num [cos_turn_zero]) (by omega)⟩
  · exact ⟨-2, rfl, hcases (p := 1) (q := 2) (by decide) (by norm_num [cos_turn_half]) (by omega)⟩
  · rcases hquarter with h | h
    · exact ⟨0, rfl, hcases (p := 1) (q := 4) (by decide) (by norm_num [cos_turn_quarter])
        (by omega)⟩
    · exact ⟨0, rfl, hcases (p := 3) (q := 4) (by decide) (by norm_num [cos_turn_three_quarters])
        (by omega)⟩
  · rcases hthird with h | h
    · exact ⟨-1, rfl, hcases (p := 1) (q := 3) (by decide) (by norm_num [cos_turn_third])
        (by omega)⟩
    · exact ⟨-1, rfl, hcases (p := 2) (q := 3) (by decide) (by norm_num [cos_turn_two_thirds])
        (by omega)⟩
  · rcases hsixth with h | h
    · exact ⟨1, rfl, hcases (p := 1) (q := 6) (by decide) (by norm_num [cos_turn_sixth]) (by omega)⟩
    · exact ⟨1, rfl, hcases (p := 5) (q := 6) (by decide) (by norm_num [cos_turn_five_sixths])
        (by omega)⟩
  · omega

end Sys2Proof
end

section
/-! SUPPORT. The branches of `stage_mag` (42_mono_chain.md R171, R172), and the pole on the unit circle
over the real numbers. -/

namespace Sys2Proof

theorem F32.one_exact : F32.one.exact = 2 ^ 149 := by decide +kernel

theorem pureGain_iff (k : Coef) : pureGain k = true ↔
    k.b0.isFinite = true ∧ k = ⟨k.b0, F32.zero, F32.zero, F32.zero, F32.zero⟩ := by
  obtain ⟨b0, b1, b2, a1, a2⟩ := k
  simp [pureGain, and_comm]

theorem stageMag_of_pureGain (nm : NumChoice) {k : Coef} (f sr : F32) (h : pureGain k = true) :
    stageMag nm k f sr = fabs k.b0 := by
  rw [stageMag, if_pos h]

theorem stageMag_of_zero (nm : NumChoice) {k : Coef} {f : F32} (sr : F32) (h : pureGain k = false)
    (hf : feq f F32.zero = true) :
    stageMag nm k f sr = nm.fdiv (fabs (nm.fadd (nm.fadd k.b0 k.b1) k.b2))
      (fabs (nm.fadd (nm.fadd F32.one k.a1) k.a2)) := by
  rw [stageMag, h, if_neg Bool.false_ne_true, if_pos hf]

theorem stageMag_of_poleAt (nm : NumChoice) {k : Coef} {f sr : F32} (h : pureGain k = false)
    (ha1 : k.a1.isFinite = true) (ha2 : k.a2.isFinite = true) (hf : f.isFinite = true)
    (hfz : feq f F32.zero = false) (hsr : sr.isFinite = true) (hpos : flt F32.zero sr = true)
    (hpole : poleAt k.a1 k.a2 f sr = true) :
    stageMag nm k f sr = notFinite (Config.freeStageMag nm k f sr) := by
  simp [stageMag, h, ha1, ha2, hf, hfz, hsr, hpos, hpole]

theorem notFinite_isFinite (w : F32) : (notFinite w).isFinite = false := by
  unfold notFinite
  split
  next => decide
  next h => exact Bool.eq_false_iff.mpr h

/-- A value above zero in the IEEE order has a positive exact value (R15). -/
theorem F32.exact_pos_of_flt {w : F32} (h : flt F32.zero w = true) : 0 < w.exact := by
  have hzero : F32.zero.key = 0 := by decide
  rw [flt, Bool.and_eq_true, decide_eq_true_iff, hzero, F32.key, fabs_toNat] at h
  have hkey := h.2
  rw [w.exact_eq]
  split at hkey
  next => omega
  next hneg =>
    have hbits : w.bits ≠ 0 := by omega
    rw [if_neg hneg]
    exact Int.natCast_pos.mpr (Nat.pos_of_ne_zero (mt magOf_eq_zero_iff.mp hbits))

theorem record_fadd_binary32 (j : Nat) : (NumChoice.binary32 j).record.fadd = fadd j := rfl

theorem record_fdiv_binary32 (j : Nat) : (NumChoice.binary32 j).record.fdiv = fdiv j := rfl

/-- In binary32 a pure gain at frequency zero is its own quotient (R172). -/
theorem fdiv_gain_sums (j : Nat) {g : F32} (hg : g.isFinite = true) :
    fdiv j (fabs (fadd j (fadd j g F32.zero) F32.zero))
      (fabs (fadd j (fadd j F32.one F32.zero) F32.zero)) = fabs g := by
  rw [fabs_fadd_zero_zero j hg, fabs_fadd_zero_zero j (by decide), fabs_one, fdiv_fabs_one j hg]

/-- Where the sine of the angle is zero, twice the cosine is 2 or -2, and only there. -/
theorem twice_cos_eq_two_iff {w : ℝ} {c : Int} (hc : (c : ℝ) = 2 * Real.cos w) :
    (c = 2 ∨ c = -2) ↔ Real.sin w = 0 := by
  have hsq := Real.sin_sq_add_cos_sq w
  have hcos : Real.cos w = c / 2 := by linarith
  rw [hcos] at hsq
  have hc4 : (c = 2 ∨ c = -2) ↔ c ^ 2 = 4 := by
    rw [show (4 : Int) = 2 ^ 2 from rfl, sq_eq_sq_iff_eq_or_eq_neg]
  have hcast : c ^ 2 = 4 ↔ (c : ℝ) ^ 2 = 4 := by exact_mod_cast Iff.rfl
  rw [hc4, hcast, ← pow_eq_zero_iff (two_ne_zero : 2 ≠ 0)]
  constructor <;> intro h <;> linarith

/-- A real zero of the denominator has a rational cosine: the sine is zero, or a2 = 1 and
a1 = -2 cos(w) (R171, R172). -/
theorem denominator_zero_cases {one a1 a2 : Int} {w : ℝ}
    (hre : (one : ℝ) + a1 * Real.cos w + a2 * Real.cos (2 * w) = 0)
    (him : (a1 : ℝ) * Real.sin w + a2 * Real.sin (2 * w) = 0) :
    (Real.sin w = 0 ∧ (one : ℝ) + a1 * Real.cos w + a2 = 0) ∨
      (Real.sin w ≠ 0 ∧ a2 = one ∧ (a1 : ℝ) = -(2 * Real.cos w * one)) := by
  rw [Real.cos_two_mul] at hre
  rw [Real.sin_two_mul] at him
  have hsq := Real.sin_sq_add_cos_sq w
  by_cases hsin : Real.sin w = 0
  · rw [hsin] at hsq
    exact .inl ⟨hsin, by linear_combination hre - 2 * (a2 : ℝ) * hsq⟩
  · have ha1 : (a1 : ℝ) = -(2 * a2 * Real.cos w) := by
      have hmul : Real.sin w * (a1 + 2 * a2 * Real.cos w) = 0 := by linear_combination him
      linarith [(mul_eq_zero.mp hmul).resolve_left hsin]
    have ha2 : (a2 : ℝ) = one := by
      rw [ha1] at hre
      linear_combination -hre
    exact .inr ⟨hsin, by exact_mod_cast ha2, by rw [ha1, ha2]; ring⟩

/-- So only angles with a rational cosine are poles: zero sine means a cosine of 1 or -1. -/
theorem rational_cos_of_denominator_zero {one a1 a2 : Int} (hone : one ≠ 0) {w : ℝ}
    (hre : (one : ℝ) + a1 * Real.cos w + a2 * Real.cos (2 * w) = 0)
    (him : (a1 : ℝ) * Real.sin w + a2 * Real.sin (2 * w) = 0) :
    ∃ q : ℚ, Real.cos w = q := by
  rcases denominator_zero_cases hre him with ⟨hsin, _⟩ | ⟨_, _, ha1⟩
  · rcases Real.sin_eq_zero_iff_cos_eq.mp hsin with h | h
    · exact ⟨1, by rw [h]; norm_num⟩
    · exact ⟨-1, by rw [h]; norm_num⟩
  · have hone' : (one : ℝ) ≠ 0 := by exact_mod_cast hone
    refine ⟨-a1 / (2 * one), ?_⟩
    push_cast
    rw [ha1]
    field_simp

/-- `poleAt` finds every pole on the unit circle (R172). -/
theorem poleAt_of_denominator_zero {a1 a2 f sr : F32} (hsr : 0 < sr.exact)
    (hre : (F32.one.exact : ℝ) + a1.exact * Real.cos (turn f.exact sr.exact)
      + a2.exact * Real.cos (2 * turn f.exact sr.exact) = 0)
    (him : (a1.exact : ℝ) * Real.sin (turn f.exact sr.exact)
      + a2.exact * Real.sin (2 * turn f.exact sr.exact) = 0) :
    poleAt a1 a2 f sr = true := by
  have hone : F32.one.exact ≠ 0 := by rw [F32.one_exact]; exact pow_ne_zero _ two_ne_zero
  obtain ⟨c, hsome, hc⟩ :=
    twiceCos?_of_rational_cos hsr (rational_cos_of_denominator_zero hone hre him)
  simp only [poleAt, hsome, twice_cos_eq_two_iff hc]
  rcases denominator_zero_cases hre him with ⟨hsin, hsum⟩ | ⟨hsin, ha2, ha1⟩
  · rw [if_pos hsin, decide_eq_true_iff]
    have hreal : (2 * F32.one.exact + c * a1.exact + 2 * a2.exact : ℝ) = 0 := by
      rw [hc]
      linear_combination 2 * hsum
    exact_mod_cast hreal
  · rw [if_neg hsin, decide_eq_true_iff]
    rw [← hc] at ha1
    exact ⟨ha2, by exact_mod_cast ha1⟩

end Sys2Proof
end

section
/-! The obligation about the magnitude of one biquad (42_mono_chain.md R172). -/

open Sys2Proof Sys2Proof.Machine

/-- Settles O44: one branch of `stage_mag` for each clause, with what binary32 computes exactly where a
pure gain meets frequency zero, and Niven's theorem for the poles. -/
theorem stageMagnitudeLimits : Obligations.StageMagnitudeLimits := by
  unfold Obligations.StageMagnitudeLimits
  have hgain (nm : NumChoice) {g : F32} (f sr : F32) (hg : g.isFinite = true) :
      stageMag nm ⟨g, F32.zero, F32.zero, F32.zero, F32.zero⟩ f sr = fabs g :=
    stageMag_of_pureGain nm f sr ((pureGain_iff _).mpr ⟨hg, rfl⟩)
  refine ⟨fun nm f sr => ?identity, fun nm g f sr hg => hgain nm f sr hg,
    fun nm k f sr hf hchoice => ?zero, ?pole⟩
  case identity => exact (hgain nm f sr (by decide)).trans fabs_one
  case zero =>
    cases hpure : pureGain k
    case false => exact stageMag_of_zero nm sr hpure hf
    case true =>
      have hshape := (pureGain_iff k).mp hpure
      obtain ⟨j, rfl⟩ := hchoice.resolve_right (not_not_intro hshape)
      obtain ⟨hfin, hk⟩ := hshape
      rw [hk, record_fdiv_binary32, record_fadd_binary32]
      exact (hgain _ f sr hfin).trans (fdiv_gain_sums j hfin).symm
  case pole =>
    intro nm k f sr ha1 ha2 hf hfz hsr hpos w hre him
    have hpure : pureGain k = false := by
      by_contra hpure
      obtain ⟨_, hk⟩ := (pureGain_iff k).mp (Bool.not_eq_false _ ▸ hpure)
      have hz : F32.zero.exact = 0 := by decide
      rw [hk, F32.one_exact] at hre
      simp [hz] at hre
    have hpole : poleAt k.a1 k.a2 f sr = true :=
      poleAt_of_denominator_zero (F32.exact_pos_of_flt hpos) hre him
    exact (congrArg F32.isFinite (stageMag_of_poleAt nm hpure ha1 ha2 hf hfz hsr hpos hpole)).trans
      (notFinite_isFinite _)

end
